-- ==== Sys2Proof/Word.lean ====
section
/-! DEFINITION. The words of the block: a register or bus word and a permutation-entry byte.
Numbering is that of rule R6: bit 0 is the least significant bit, and nothing is signed. -/

namespace Sys2Proof

/-- A register or bus word, 32 bits (R6, R22). -/
abbrev Word := BitVec 32

/-- One entry of `PERM_IN` or `PERM_OUT`, 8 bits (R31). -/
abbrev Byte := BitVec 8

/-- A permutation as the spec writes it (R9): the list `[p(0), ..., p(L-1)]` of naturals.
That it is a bijection is a check (`Machine.isBij`), not part of the type. -/
abbrev Perm := List Nat

/-- `p(i)` of R9. -/
abbrev permAt (p : Perm) (i : Nat) : Nat := p.getD i 0

end Sys2Proof
end

