-- ==== Sys2Proof/Config.lean ====
section
/-! DEFINITION. What an implementation of the block fixes (R5, R100): the sizes that this hardware fixes
for good, the parameters that a platform chooses once, and the one uninterpreted family of random streams. -/

namespace Sys2Proof

/-- `W`, the block width in bits (R5). -/
abbrev Config.width : Nat := 32

/-- `LP`, the structural domain size (R5). -/
abbrev Config.structuralSize : Nat := 32

/-- `LS`, the substitution domain size (R5). -/
abbrev Config.substitutionSize : Nat := 16

/-- The size of the register window in bytes (R22, R60). -/
abbrev Config.windowSize : Nat := 0x100

/-- `PRNG` of R100: a pair `(init, next)` of total functions over some state type `σ`. -/
structure Prng (σ : Type) where
  init : Word → σ
  next : σ → Word × σ

/-- FREE (R100, log entry 2): `init` of the `k`-th stream that a platform may choose in place of the default.
It has no body, so nothing can be proved of its values. -/
opaque Config.platformInit : Nat → Word → Nat

/-- FREE (R100, log entry 2): `next` of the `k`-th stream that a platform may choose in place of the default. -/
opaque Config.platformNext : Nat → Nat → Word × Nat

/-- Which random stream the block is built with (R5 `PRNG`). -/
inductive PrngChoice where
  /-- The default stream `XS32` of R101. -/
  | xs32
  /-- Any other stream: `Config.platformInit k` with `Config.platformNext k`. -/
  | platform (k : Nat)
  deriving DecidableEq, Repr

/-- The implementation parameters of R5, fixed for a run (R20). -/
structure Params where
  /-- `N`, the entries per pool, 1..256. -/
  n : Nat
  /-- `SWAP_COUNT`, the swaps per attempt, 1..255. -/
  swapCount : Nat
  /-- `MAX_ATTEMPTS`, the attempts per accepted permutation, 1..65536. -/
  maxAttempts : Nat
  /-- `PRNG`. -/
  prng : PrngChoice
  /-- `BASE`, the bus address of offset 0; the bus address width is the platform's, so this is a natural. -/
  base : Nat
  deriving DecidableEq, Repr

/-- The defaults of R5. `BASE` is open there: 0 is the model's own choice (DESIGN CHOICE, log entry 3). -/
def Params.default : Params :=
  { n := 32, swapCount := 64, maxAttempts := 16, prng := .xs32, base := 0 }

end Sys2Proof
end

