-- ==== Sys2Proof/Machine/State.lean ====
section
/-! DEFINITION. The state of the block (R20), what can arrive from outside it, and the state after reset (R211).
Plain data throughout. -/

namespace Sys2Proof.Machine

/-- The two pools (R34): `PPOOL[k]` is `structural[k]`, `SPOOL[k]` is `substitution[k]`. -/
structure Pools where
  structural : List Perm
  substitution : List Perm
  deriving DecidableEq, Repr

/-- The error causes of R181 other than `None` (code 0). Their codes are `ErrCode.code`. -/
inductive ErrCode where
  /-- Never raised: a 32-bit register has one length (R182). -/
  | invalidBlockLength
  | poolIndexOutOfRange
  | nonBijectivePermutation
  | illegalCommand
  | poolNotBuilt
  | poolLocked
  | retryLimit
  deriving DecidableEq, Repr

/-- The direction of a host access, with the word a write carries. -/
inductive Dir where
  | read
  | write (v : Word)
  deriving DecidableEq, Repr

/-- One host bus access as it reaches the block: its bus address, its size in bytes and its number of beats.
A burst has more than one beat (R61). For a write that is not one word, `v` is only the first word of its data:
such a write is rejected whatever it carries. -/
structure Access where
  dir : Dir
  addr : Nat
  size : Nat
  beats : Nat
  deriving DecidableEq, Repr

/-- What may happen next at the block, in the one total order of R69. -/
inductive Input where
  /-- A host access (R64, R66, R67). -/
  | access (a : Access)
  /-- The sequencer gets the turn: it completes the running command, if there is one (R65). -/
  | turn
  /-- The platform asserts reset (R210). -/
  | reset
  deriving DecidableEq, Repr

/-- What the bus answers to an access that the block accepts. -/
inductive Reply where
  /-- A read returned this word. -/
  | data (v : Word)
  /-- A write completed without a bus error (also when it was dropped or ignored). -/
  | ack
  deriving DecidableEq, Repr

/-- The registers of the window (R22). -/
inductive Reg where
  | cmd
  | status
  | seed
  | blockIn
  | blockOut
  | info
  | permIn (k : Fin 8)
  | permOut (k : Fin 8)
  deriving DecidableEq, Repr

/-- The state of the block. The fields down to `pools` are those of R20; `params` is fixed for a run;
`inputs` and `reply` are the model's own (log entries 4 and 5). -/
structure State where
  /-- The parameters of R5. No step changes them (log entry 1). -/
  params : Params
  /-- `CMD`: the last accepted command word (R23). -/
  cmd : Word
  /-- `STATUS.BUSY` (R25). -/
  busy : Bool
  /-- `STATUS.DONE` (R26). -/
  done : Bool
  /-- `STATUS.ERR` (R26). -/
  err : Bool
  /-- `STATUS.ERRCODE` (R26, R181). -/
  errcode : BitVec 4
  /-- `STATUS.WDROP` (R33). -/
  wdrop : Bool
  /-- `SEED` (R29). -/
  seed : Word
  /-- `BLOCK_IN` (R30). -/
  blockIn : Word
  /-- `BLOCK_OUT` (R30). -/
  blockOut : Word
  /-- `PERM_IN0..7` (R31). -/
  permIn : Vector Word 8
  /-- `PERM_OUT0..7` (R32). -/
  permOut : Vector Word 8
  /-- `PPOOL` and `SPOOL`; `some` exactly when `STATUS.POOL_VALID = 1` (R20, R34). -/
  pools : Option Pools
  /-- What is still to happen at the block, first event first: any order is possible (R69, U3, U4). -/
  inputs : List Input
  /-- The bus answer to the latest accepted access; `none` before the first one. -/
  reply : Option Reply
  deriving DecidableEq, Repr

/-- Why a host access stops the model. Each is an error response on the bus that leaves the block unchanged;
R186 asks a model to treat it as a fault of the host, never as a value. All are safe: the model stops
where the hardware goes on unchanged. -/
inductive Fault where
  /-- Raised by `hostAccess`: the size is not 4 bytes, there is more than one beat, or the offset is not
  a multiple of 4 (R61). Safe. -/
  | busErrorShape
  /-- Raised by `hostAccess`: an aligned word access to a reserved offset (R62). Safe. -/
  | busErrorReserved
  /-- Raised by `hostAccess`: the address is outside the window, so the block has no register there (R60). Safe. -/
  | outsideWindow
  deriving DecidableEq, Repr

/-- Why a command has no meaning in the model. -/
inductive Refusal where
  /-- Raised only by an arm of `exec` for a command not modelled yet; no arm is left that raises it. Safe. -/
  | notModelled (mnemonic : String)
  deriving DecidableEq, Repr

/-- Every piece of the block's state at its reset value (R211), for given parameters and events to come. -/
def State.resetWith (p : Params) (inputs : List Input) : State :=
  { params := p
    cmd := 0
    busy := false
    done := false
    err := false
    errcode := 0
    wdrop := false
    seed := 0
    blockIn := 0
    blockOut := 0
    permIn := Vector.replicate 8 0
    permOut := Vector.replicate 8 0
    pools := none
    inputs := inputs
    reply := none }

/-- The machine right after reset (R211), with the default parameters of R5 and nothing to come. -/
def State.reset : State := State.resetWith Params.default []

end Sys2Proof.Machine
end

