-- ==== Sys2Proof/Machine/Operands.lean ====
section
/-! DEFINITION. The operand forms: block positions and groups (R7, R8), permutations (R9),
permutation entries in register words (R31, R32) and the check on `PERM_IN` (R131, R132). -/

namespace Sys2Proof.Machine

/-- `pos(b, i) = b[31 - i]`: position 0 is the most significant bit (R7). -/
def pos (b : Word) (i : Nat) : Bool := b.getLsbD (31 - i)

/-- `fromPos(f)` of R7: the sum of `f(i) << (31 - i)`. Each summand has a bit of its own, so the sum is their `|||`. -/
def fromPos (f : Nat → Bool) : Word :=
  (List.range 32).foldl (fun acc i => acc ||| (BitVec.ofBool (f i)).setWidth 32 <<< (31 - i)) 0

/-- `grp(b, g) = b[31-4g : 28-4g]`, for `g` in 0..7 (R8). -/
def grp (b : Word) (g : Nat) : BitVec 4 := b.extractLsb' (28 - 4 * g) 4

/-- `fromGrp(h) = h(0) || h(1) || ... || h(7)` (R8). -/
def fromGrp (h : Nat → BitVec 4) : Word :=
  (h 0 ++ h 1 ++ h 2 ++ h 3 ++ h 4 ++ h 5 ++ h 6 ++ h 7).cast rfl

/-- `id_L` (R9). -/
def identity (L : Nat) : Perm := List.range L

/-- `isBij_L(p)` (R9): `L` values, each below `L`, every value 0..L-1 exactly once. -/
def isBij (L : Nat) (p : Perm) : Bool :=
  p.length == L && p.all (fun v => decide (v < L)) && (List.range L).all (fun v => p.count v == 1)

/-- `entry(PERM, e)`: byte `e mod 4` of word `e div 4` (R31, R68). -/
def entry (ws : Vector Word 8) (e : Nat) : Byte :=
  (ws[e / 4]?.getD 0).extractLsb' (8 * (e % 4)) 8

/-- The eight words whose entry `e` is `f e` (R31, R32). -/
def packEntries (f : Nat → Byte) : Vector Word 8 :=
  Vector.ofFn fun k => (f (4 * k + 3) ++ f (4 * k + 2) ++ f (4 * k + 1) ++ f (4 * k)).cast rfl

/-- A result permutation in `PERM_OUT` (R32): entry `e` is `zext_8(q(e))`, and entries past the domain are 0. -/
def packPerm (q : Perm) : Vector Word 8 :=
  packEntries fun e => BitVec.ofNat 8 (permAt q e)

/-- `a(e)` of R131: entry `e` of `PERM_IN` as a natural. -/
def permInEntry (s : State) (e : Nat) : Nat := (entry s.permIn e).toNat

/-- `permInOk(L)` of R131: entries 0..L-1 are below `L` and pairwise different, on full 8-bit values. -/
def permInOk (L : Nat) (s : State) : Bool :=
  (List.range L).all (fun e => decide (permInEntry s e < L)) &&
  (List.range L).all (fun e => (List.range L).all (fun e' => e == e' || permInEntry s e != permInEntry s e'))

/-- `permIn(L)` of R132. -/
def permIn (L : Nat) (s : State) : Perm := (List.range L).map (permInEntry s)

end Sys2Proof.Machine
end

