-- ==== Sys2Proof/Machine/Flags.lean ====
section
/-! DEFINITION. `STATUS` and `INFO`: the words the host reads (R24, R28), the error codes (R181),
and everything that writes a `STATUS` field but `POOL_VALID` (R25, R26, R33). -/

namespace Sys2Proof.Machine

/-- The value of `STATUS.ERRCODE` for an error (R181). Code 0 is `None`; codes 8..15 are reserved. -/
def ErrCode.code : ErrCode → BitVec 4
  | .invalidBlockLength => 1
  | .poolIndexOutOfRange => 2
  | .nonBijectivePermutation => 3
  | .illegalCommand => 4
  | .poolNotBuilt => 5
  | .poolLocked => 6
  | .retryLimit => 7

/-- `STATUS.POOL_VALID` is `pools.isSome` (R20, R27). -/
def State.poolValid (s : State) : Bool := s.pools.isSome

/-- The word a read of `STATUS` returns (R24); bits 7:5 and 31:12 read 0. -/
def State.statusWord (s : State) : Word :=
  (0#20 ++ s.errcode ++ 0#3 ++ BitVec.ofBool s.wdrop ++ BitVec.ofBool s.poolValid ++
    BitVec.ofBool s.err ++ BitVec.ofBool s.done ++ BitVec.ofBool s.busy).cast rfl

/-- The word a read of `INFO` returns (R28). -/
def infoWord (p : Params) : Word :=
  (BitVec.ofNat 8 p.swapCount ++ BitVec.ofNat 8 (p.n - 1) ++
    BitVec.ofNat 8 Config.substitutionSize ++ BitVec.ofNat 8 Config.width).cast rfl

/-- The accepted write of `CMD` (R23, R26, R64): the word is taken and not decoded, and a command starts. -/
def State.accept (s : State) (v : Word) : State :=
  { s with cmd := v, busy := true, done := false, err := false, errcode := 0, wdrop := false }

/-- A host write that is dropped because `BUSY = 1` (R33). -/
def State.dropWrite (s : State) : State := { s with wdrop := true }

/-- The `STATUS` fields at a successful completion (R26, R65). -/
def State.finishOk (s : State) : State :=
  { s with busy := false, done := true, err := false, errcode := 0 }

/-- The `STATUS` fields at a failed completion (R26, R65, R185). -/
def State.finishErr (s : State) (e : ErrCode) : State :=
  { s with busy := false, done := true, err := true, errcode := e.code }

end Sys2Proof.Machine
end

