-- ==== Sys2Proof/Machine/Ops.lean ====
section
/-! DEFINITION. The shared operations of the commands: what a command can write, how it completes,
how an error is recorded (the block's only form of "taking an exception", R180, R185; nothing returns from one,
R188), how a command reads the pools, and reset. -/

namespace Sys2Proof.Machine

/-- What a command that succeeds writes beside `STATUS` (third column of R88): one of three things. -/
inductive Writes where
  /-- `PPOOL`, `SPOOL` and `POOL_VALID <- 1` together (R106). -/
  | pools (p : Pools)
  /-- `BLOCK_OUT` (R30). -/
  | blockOut (b : Word)
  /-- All 32 entries of `PERM_OUT`, from a result permutation (R32). -/
  | permOut (q : Perm)
  deriving DecidableEq, Repr

/-- "Apply writes" of R65. -/
def Writes.apply (w : Writes) (s : State) : State :=
  match w with
  | .pools p => { s with pools := some p }
  | .blockOut b => { s with blockOut := b }
  | .permOut q => { s with permOut := packPerm q }

/-- The completion step of R65 for a command whose `Exec` gave `r`: on `Ok` its writes and the success fields,
on `Err` the error fields and no other write (R183, R185). -/
def complete (s : State) (r : Except ErrCode Writes) : Host.Outcome State Fault Refusal :=
  match r with
  | .ok w => .next (w.apply s).finishOk
  | .error e => .next (s.finishErr e)

/-- The check `POOL_VALID = 0 → PoolNotBuilt` (R184 point 2), giving the pools when they are built. -/
def builtPools (s : State) : Except ErrCode Pools :=
  match s.pools with
  | none => .error .poolNotBuilt
  | some p => .ok p

/-- The check `k >= N → PoolIndexOutOfRange` (R82, R184 point 3). -/
def checkIndex (s : State) (k : Nat) : Except ErrCode Unit :=
  if s.params.n ≤ k then .error .poolIndexOutOfRange else .ok ()

/-- Pool entry `k` (R34). An entry that is not a bijection is unreachable (R109); if it is ever met,
the command fails with `NonBijectivePermutation` (I7; log entry 8). -/
def poolEntry (L : Nat) (pool : List Perm) (k : Nat) : Except ErrCode Perm :=
  let p := pool.getD k []
  if isBij L p then .ok p else .error .nonBijectivePermutation

/-- The checks and reads that `ENC` and `DEC` share, in the order of R184: pool state, `PIDX`, `SIDX`, bijectivity. -/
def poolKey (s : State) (p q : Nat) : Except ErrCode (Perm × Perm) := do
  let pl ← builtPools s
  checkIndex s p
  checkIndex s q
  let pp ← poolEntry Config.structuralSize pl.structural p
  let sp ← poolEntry Config.substitutionSize pl.substitution q
  pure (pp, sp)

/-- The host permutation of domain `L` in `PERM_IN`, or `NonBijectivePermutation` (R131, R132, R184 point 4). -/
def hostPerm (L : Nat) (s : State) : Except ErrCode Perm :=
  if permInOk L s then .ok (permIn L s) else .error .nonBijectivePermutation

/-- Reset (R210, R211): every piece of the block's state takes its reset value; a running command is abandoned.
The parameters are not state, and the events still to come are not the block's. -/
def resetBlock (s : State) : State := State.resetWith s.params s.inputs

end Sys2Proof.Machine
end

