-- ==== Sys2Proof/Machine/Bus.lean ====
section
/-! DEFINITION. The register window on the bus: the map (R22), which accesses it takes (R60 to R62),
reads (R67) and writes (R63, R64, R66). -/

namespace Sys2Proof.Machine

/-- The offset of a register in the window (R22). -/
def Reg.offset : Reg → Nat
  | .cmd => 0x00
  | .status => 0x04
  | .seed => 0x08
  | .blockIn => 0x0C
  | .blockOut => 0x10
  | .info => 0x14
  | .permIn k => 0x20 + 4 * k
  | .permOut k => 0x40 + 4 * k

/-- The register at an aligned offset (R22), or `none` where the offset is reserved (R62). -/
def Reg.ofOffset (off : Nat) : Option Reg :=
  if off = 0x00 then some .cmd
  else if off = 0x04 then some .status
  else if off = 0x08 then some .seed
  else if off = 0x0C then some .blockIn
  else if off = 0x10 then some .blockOut
  else if off = 0x14 then some .info
  else if h : 0x20 ≤ off ∧ off < 0x40 then some (.permIn ⟨(off - 0x20) / 4, by omega⟩)
  else if h : 0x40 ≤ off ∧ off < 0x60 then some (.permOut ⟨(off - 0x40) / 4, by omega⟩)
  else none

/-- The registers the host may write (R22, column "access"); a write to any other is ignored (R63). -/
def Reg.writable : Reg → Bool
  | .cmd | .seed | .blockIn | .permIn _ => true
  | .status | .blockOut | .info | .permOut _ => false

/-- The register an access selects, or the error response it gets (R60 to R62). -/
def Access.target (a : Access) (p : Params) : Except Fault Reg :=
  let off := a.addr - p.base
  if a.addr < p.base ∨ p.base + Config.windowSize ≤ a.addr then .error .outsideWindow
  else if a.size ≠ 4 ∨ a.beats ≠ 1 ∨ off % 4 ≠ 0 then .error .busErrorShape
  else
    match Reg.ofOffset off with
    | none => .error .busErrorReserved
    | some r => .ok r

/-- What a read of a register returns (R23, R24, R28 to R32, R67). -/
def readReg (s : State) : Reg → Word
  | .cmd => s.cmd
  | .status => s.statusWord
  | .seed => s.seed
  | .blockIn => s.blockIn
  | .blockOut => s.blockOut
  | .info => infoWord s.params
  | .permIn k => s.permIn[k]
  | .permOut k => s.permOut[k]

/-- A write of a word to a register: `CMD` starts a command or is dropped (R64), an operand register takes the word
or the write is dropped (R66), and a read-only register ignores it (R63). -/
def writeReg (s : State) (r : Reg) (v : Word) : State :=
  match r with
  | .cmd => if s.busy then s.dropWrite else s.accept v
  | .seed => if s.busy then s.dropWrite else { s with seed := v }
  | .blockIn => if s.busy then s.dropWrite else { s with blockIn := v }
  | .permIn k => if s.busy then s.dropWrite else { s with permIn := s.permIn.set k v }
  | .status | .blockOut | .info | .permOut _ => s

/-- One host access (R69: it is single-copy atomic). An error response leaves the block unchanged and is a fault
of the host (R186). -/
def hostAccess (s : State) (a : Access) : Host.Outcome State Fault Refusal :=
  match a.target s.params with
  | .error f => .fault f
  | .ok r =>
    match a.dir with
    | .read => .next { s with reply := some (.data (readReg s r)) }
    | .write v => .next { writeReg s r v with reply := some .ack }

/-- `MemRead(off, 4)` of R10 and R60, as a bus access. -/
def memRead (p : Params) (off : Nat) : Access :=
  { dir := .read, addr := p.base + off, size := 4, beats := 1 }

/-- `MemWrite(off, 4, v)` of R10 and R60, as a bus access. -/
def memWrite (p : Params) (off : Nat) (v : Word) : Access :=
  { dir := .write v, addr := p.base + off, size := 4, beats := 1 }

end Sys2Proof.Machine
end

