-- ==== Sys2Proof/Syntax.lean ====
section
/-! DEFINITION. The commands of the block, one constructor per row of the opcode map (R83).
The operand fields `PIDX` and `SIDX` are indices, compared and never masked, so they are naturals. -/

namespace Sys2Proof

/-- The nine commands of PGCMD v1 (R83). -/
inductive Instr where
  /-- `BUILD`: build and lock both pools from `SEED` (R106). -/
  | build
  /-- `ENC p, s`: encrypt `BLOCK_IN` under key `(p, s)` (R150). -/
  | enc (pidx sidx : Nat)
  /-- `DEC p, s`: decrypt `BLOCK_IN` under key `(p, s)` (R151). -/
  | dec (pidx sidx : Nat)
  /-- `INV.P`: invert the domain-32 permutation in `PERM_IN` (R133). -/
  | invP
  /-- `INV.S`: invert the domain-16 permutation in `PERM_IN` (R134). -/
  | invS
  /-- `RDP p`: read out structural pool entry `p` (R107). -/
  | rdp (pidx : Nat)
  /-- `RDS s`: read out substitution pool entry `s` (R108). -/
  | rds (sidx : Nat)
  /-- `PAPPLY`: apply `PERM_IN` as a structural layer (R152). -/
  | papply
  /-- `SAPPLY`: apply `PERM_IN` as a substitution layer (R153). -/
  | sapply
  deriving DecidableEq, Repr

end Sys2Proof
end

