-- ==== Sys2Proof/WellFormed.lean ====
section
/-! DEFINITION. Which commands and which parameter sets the spec allows. -/

namespace Sys2Proof

/-- An index fits its 8-bit field, 0..255 (R82, R89). -/
def indexOk (k : Nat) : Bool := decide (k < 256)

/-- A command an assembler accepts: every index is in 0..255 (R89).
Whether an index is below `N` is not checked here but when the command runs (R82). -/
def Instr.wf : Instr → Bool
  | .build => true
  | .enc p s => indexOk p && indexOk s
  | .dec p s => indexOk p && indexOk s
  | .invP => true
  | .invS => true
  | .rdp p => indexOk p
  | .rds s => indexOk s
  | .papply => true
  | .sapply => true

/-- The ranges of R5 (and C7): `N` in 1..256, `SWAP_COUNT` in 1..255, `MAX_ATTEMPTS` in 1..65536. -/
def Params.wf (p : Params) : Bool :=
  decide (1 ≤ p.n) && decide (p.n ≤ 256) &&
  decide (1 ≤ p.swapCount) && decide (p.swapCount ≤ 255) &&
  decide (1 ≤ p.maxAttempts) && decide (p.maxAttempts ≤ 65536)

end Sys2Proof
end

