-- ==== Sys2Proof/Decode.lean ====
section
/-! DEFINITION. The command word: its fields (R81), its decoder (R85, R86), and after it the encoder and
the assembler (R83, R89). One format, one length: a command is exactly one 32-bit word (R80). -/

namespace Sys2Proof

/-- Why a word is illegal: one name for each point of R85. -/
inductive DecodeError where
  /-- `RSV0` is not zero. -/
  | reservedField0
  /-- `RSV1` is not zero. -/
  | reservedField1
  /-- `OP` is 0x0 or in 0x8..0xF. -/
  | reservedOp
  /-- `D = 1` with `OP` other than 0x4 or 0x5. -/
  | noSubstitutionForm
  /-- A field that the row of R83 marks 0 is not zero. -/
  | unusedField
  deriving DecidableEq, Repr

/-- `OP`, bits 3:0 (R81). -/
def opField (w : Word) : Nat := (w.extractLsb' 0 4).toNat
/-- `D`, bit 4 (R81). -/
def domainField (w : Word) : Nat := (w.extractLsb' 4 1).toNat
/-- `RSV0`, bits 7:5 (R81). -/
def rsv0Field (w : Word) : Nat := (w.extractLsb' 5 3).toNat
/-- `PIDX`, bits 15:8, zero-extended (R81, R82). -/
def pidxField (w : Word) : Nat := (w.extractLsb' 8 8).toNat
/-- `SIDX`, bits 23:16, zero-extended (R81, R82). -/
def sidxField (w : Word) : Nat := (w.extractLsb' 16 8).toNat
/-- `RSV1`, bits 31:24 (R81). -/
def rsv1Field (w : Word) : Nat := (w.extractLsb' 24 8).toNat

/-- Accept `i` only when the fields its row marks 0 are 0 (R85). -/
def whenUnused (unused : Bool) (i : Instr) : Except DecodeError Instr :=
  if unused then .ok i else .error .unusedField

/-- The decoding function of R86, total on every word. Its errors are the `Illegal` of R86, by name. -/
def decode (w : Word) : Except DecodeError Instr :=
  let p := pidxField w
  let s := sidxField w
  if rsv0Field w ≠ 0 then .error .reservedField0
  else if rsv1Field w ≠ 0 then .error .reservedField1
  else
    match opField w, domainField w with
    | 1, 0 => whenUnused (p == 0 && s == 0) .build
    | 2, 0 => .ok (.enc p s)
    | 3, 0 => .ok (.dec p s)
    | 4, 0 => whenUnused (p == 0 && s == 0) .invP
    | 4, 1 => whenUnused (p == 0 && s == 0) .invS
    | 5, 0 => whenUnused (s == 0) (.rdp p)
    | 5, 1 => whenUnused (p == 0) (.rds s)
    | 6, 0 => whenUnused (p == 0 && s == 0) .papply
    | 7, 0 => whenUnused (p == 0 && s == 0) .sapply
    | op, _ => if op = 0 ∨ 8 ≤ op then .error .reservedOp else .error .noSubstitutionForm

/-- What the decoder reads from a word numbered as the opcode table numbers it.
Every command is one word (R80), so a number that does not fit 32 bits is no command. -/
def decodeTableWord (nbits w : Nat) : Option Instr :=
  if nbits ≤ 32 ∧ w < 2 ^ 32 then (decode (BitVec.ofNat 32 w)).toOption else none

/-- Format `C` of R81, most significant field first: `RSV1 SIDX PIDX RSV0 D OP`, both reserved fields 0. -/
def formatC (op : BitVec 4) (d : BitVec 1) (pidx sidx : Nat) : Word :=
  (0#8 ++ BitVec.ofNat 8 sidx ++ BitVec.ofNat 8 pidx ++ 0#3 ++ d ++ op).cast rfl

/-- The command word of a command (R83, R89). -/
def encode : Instr → Word
  | .build => formatC 0x1 0 0 0
  | .enc p s => formatC 0x2 0 p s
  | .dec p s => formatC 0x3 0 p s
  | .invP => formatC 0x4 0 0 0
  | .invS => formatC 0x4 1 0 0
  | .rdp p => formatC 0x5 0 p 0
  | .rds s => formatC 0x5 1 0 s
  | .papply => formatC 0x6 0 0 0
  | .sapply => formatC 0x7 0 0 0

/-- The assembler of R89: it refuses an index outside 0..255 and does not check `< N`. -/
def assemble (i : Instr) : Option Word := if i.wf then some (encode i) else none

/-- The mnemonic of R83 and R89, letter for letter. -/
def Instr.mnemonic : Instr → String
  | .build => "BUILD"
  | .enc _ _ => "ENC"
  | .dec _ _ => "DEC"
  | .invP => "INV.P"
  | .invS => "INV.S"
  | .rdp _ => "RDP"
  | .rds _ => "RDS"
  | .papply => "PAPPLY"
  | .sapply => "SAPPLY"

/-- One row of the opcode map: a word `w` selects it when `w AND mask = match` (R83). -/
structure OpcodeRow where
  mnemonic : String
  matchWord : Word
  mask : Word
  deriving DecidableEq, Repr

/-- The opcode map of R83. -/
def opcodeMap : List OpcodeRow :=
  [ { mnemonic := "BUILD", matchWord := 0x00000001, mask := 0xFFFFFFFF },
    { mnemonic := "ENC", matchWord := 0x00000002, mask := 0xFF0000FF },
    { mnemonic := "DEC", matchWord := 0x00000003, mask := 0xFF0000FF },
    { mnemonic := "INV.P", matchWord := 0x00000004, mask := 0xFFFFFFFF },
    { mnemonic := "INV.S", matchWord := 0x00000014, mask := 0xFFFFFFFF },
    { mnemonic := "RDP", matchWord := 0x00000005, mask := 0xFFFF00FF },
    { mnemonic := "RDS", matchWord := 0x00000015, mask := 0xFF00FFFF },
    { mnemonic := "PAPPLY", matchWord := 0x00000006, mask := 0xFFFFFFFF },
    { mnemonic := "SAPPLY", matchWord := 0x00000007, mask := 0xFFFFFFFF } ]

/-- A word selects a row of the opcode map (R83). -/
def OpcodeRow.selects (r : OpcodeRow) (w : Word) : Bool := w &&& r.mask == r.matchWord

/-- The assembler text of a command, indices in decimal (R89). -/
def Instr.asmText (i : Instr) : String :=
  match i with
  | .enc p s => i.mnemonic ++ " " ++ toString p ++ ", " ++ toString s
  | .dec p s => i.mnemonic ++ " " ++ toString p ++ ", " ++ toString s
  | .rdp p => i.mnemonic ++ " " ++ toString p
  | .rds s => i.mnemonic ++ " " ++ toString s
  | .build | .invP | .invS | .papply | .sapply => i.mnemonic

end Sys2Proof
end

