-- ==== Sys2Proof/Machine/Generator.lean ====
section
/-! DEFINITION. The Permutation Generator: the seeded stream (R100 to R102), one attempt, one accepted permutation
and the two pools (R103 to R105), and the commands `BUILD`, `RDP` and `RDS` (R106 to R108).
The generation functions hold for any stream `g`; nothing here assumes anything of it (R100). -/

namespace Sys2Proof.Machine

/-- `XS32.next` of R101 on the state: shifts 13, 17, 5. -/
def xs32Next (x : Word) : Word :=
  let x1 := x ^^^ (x <<< 13)
  let x2 := x1 ^^^ (x1 >>> 17)
  x2 ^^^ (x2 <<< 5)

/-- The default stream `XS32` (R101): a zero seed is replaced, and every output is the new state. -/
def xs32 : Prng Word where
  init seed := if seed = 0 then 0x9E3779B9 else seed
  next x := (xs32Next x, xs32Next x)

/-- The `k`-th stream a platform may choose instead (R100); uninterpreted. -/
def platformPrng (k : Nat) : Prng Nat where
  init := Config.platformInit k
  next := Config.platformNext k

/-- `(p(i), p(j)) <- (p(j), p(i))` of R103, on the map `i ↦ p(i)`. With `i = j` nothing changes. -/
def swapAt (p : Nat → Nat) (i j : Nat) : Nat → Nat :=
  fun k => if k = i then p j else if k = j then p i else p k

/-- The swaps of one attempt (R103): `n` of them, each with two draws, the first for `i`, the second for `j`.
It gives the map and the stream state after the draws. -/
def swapLoop {σ : Type} (g : Prng σ) (L : Nat) : Nat → (Nat → Nat) → σ → (Nat → Nat) × σ
  | 0, p, rs => (p, rs)
  | n + 1, p, rs =>
    let di := g.next rs
    let dj := g.next di.2
    swapLoop g L n (swapAt p (di.1.toNat % L) (dj.1.toNat % L)) dj.2

/-- `attempt(L)` of R103, from the identity. -/
def attempt {σ : Type} (g : Prng σ) (L swapCount : Nat) (rs : σ) : Perm × σ :=
  let r := swapLoop g L swapCount (fun i => i) rs
  ((List.range L).map r.1, r.2)

/-- A result of generation, with the attempts it took and the stream state it left (R36). -/
structure Drawn (σ α : Type) where
  value : α
  attempts : Nat
  stream : σ

/-- `genPerm(L)` of R104 with `cap` attempts left: an identity result is rejected and its draws stay consumed;
`none` is `RetryLimit`. -/
def genPerm {σ : Type} (g : Prng σ) (L swapCount : Nat) : Nat → σ → Option (Drawn σ Perm)
  | 0, _ => none
  | cap + 1, rs =>
    let r := attempt g L swapCount rs
    if r.1 = identity L then
      match genPerm g L swapCount cap r.2 with
      | none => none
      | some d => some { d with attempts := d.attempts + 1 }
    else some { value := r.1, attempts := 1, stream := r.2 }

/-- One pool of `n` entries (R105): entry 0 first, all from one stream; any failure aborts it. -/
def genPool {σ : Type} (g : Prng σ) (L swapCount maxAttempts : Nat) : Nat → σ → Option (Drawn σ (List Perm))
  | 0, rs => some { value := [], attempts := 0, stream := rs }
  | n + 1, rs =>
    match genPerm g L swapCount maxAttempts rs with
    | none => none
    | some d =>
      match genPool g L swapCount maxAttempts n d.stream with
      | none => none
      | some ds => some { value := d.value :: ds.value, attempts := d.attempts + ds.attempts, stream := ds.stream }

/-- `genPools()` of R105 after `rs <- PRNG.init(seed)` of R102: the structural pool first, then the
substitution pool, from one stream. -/
def genPools {σ : Type} (g : Prng σ) (p : Params) (seed : Word) : Option (Drawn σ Pools) :=
  match genPool g Config.structuralSize p.swapCount p.maxAttempts p.n (g.init seed) with
  | none => none
  | some a =>
    match genPool g Config.substitutionSize p.swapCount p.maxAttempts p.n a.stream with
    | none => none
    | some b =>
      some { value := { structural := a.value, substitution := b.value }
             attempts := a.attempts + b.attempts
             stream := b.stream }

/-- The pools that the parameters and a seed determine (R100), or `none` for `RetryLimit`. -/
def generate (p : Params) (seed : Word) : Option Pools :=
  match p.prng with
  | .xs32 => (genPools xs32 p seed).map Drawn.value
  | .platform k => (genPools (platformPrng k) p seed).map Drawn.value

/-- `ExecBuild` of R106. -/
def runBuild (s : State) : Except ErrCode Writes :=
  if s.poolValid then .error .poolLocked
  else
    match generate s.params s.seed with
    | none => .error .retryLimit
    | some p => .ok (.pools p)

/-- `ExecRdp` of R107. -/
def runRdp (p : Nat) (s : State) : Except ErrCode Writes := do
  let pl ← builtPools s
  checkIndex s p
  let q ← poolEntry Config.structuralSize pl.structural p
  pure (.permOut q)

/-- `ExecRds` of R108. -/
def runRds (k : Nat) (s : State) : Except ErrCode Writes := do
  let pl ← builtPools s
  checkIndex s k
  let q ← poolEntry Config.substitutionSize pl.substitution k
  pure (.permOut q)

/-- `BUILD` (R106). -/
def execBuild (s : State) : Host.Outcome State Fault Refusal := complete s (runBuild s)

/-- `RDP p` (R107). -/
def execRdp (p : Nat) (s : State) : Host.Outcome State Fault Refusal := complete s (runRdp p s)

/-- `RDS k` (R108). -/
def execRds (k : Nat) (s : State) : Host.Outcome State Fault Refusal := complete s (runRds k s)

end Sys2Proof.Machine
end

