-- ==== Sys2Proof/Machine/Inverter.lean ====
section
/-! DEFINITION. The Permutation Inverter: the inverse (R130) and the commands `INV.P` and `INV.S` (R133, R134). -/

namespace Sys2Proof.Machine

/-- `inverse_L(p)` of R130: start from `L` zeros and set `q(p(i)) <- i` for `i` in 0..L-1. -/
def inverse (L : Nat) (p : Perm) : Perm :=
  (List.range L).foldl (fun q i => q.set (permAt p i) i) (List.replicate L 0)

/-- `ExecInvP` of R133. -/
def runInvP (s : State) : Except ErrCode Writes := do
  let p ← hostPerm Config.structuralSize s
  pure (.permOut (inverse Config.structuralSize p))

/-- `ExecInvS` of R134. -/
def runInvS (s : State) : Except ErrCode Writes := do
  let p ← hostPerm Config.substitutionSize s
  pure (.permOut (inverse Config.substitutionSize p))

/-- `INV.P` (R133). -/
def execInvP (s : State) : Host.Outcome State Fault Refusal := complete s (runInvP s)

/-- `INV.S` (R134). -/
def execInvS (s : State) : Host.Outcome State Fault Refusal := complete s (runInvS s)

end Sys2Proof.Machine
end

