-- ==== Sys2Proof/Machine/NetworkCore.lean ====
section
/-! DEFINITION. The Network Core: the two layers (R140, R142, R143), the two pipelines (R144, R145) and the commands
`ENC`, `DEC`, `PAPPLY` and `SAPPLY` (R150 to R153). -/

namespace Sys2Proof.Machine

/-- The permutation layer (R140): output position `i` takes input position `p(i)`. -/
def applyP (b : Word) (p : Perm) : Word := fromPos fun i => pos b (permAt p i)

/-- The substitution layer (R142): each group's value `v` becomes `s(v)`, in place. -/
def subst (b : Word) (s : Perm) : Word :=
  fromGrp fun g => BitVec.ofNat 4 (permAt s (grp b g).toNat)

/-- The inverse substitution layer (R143). -/
def invSubst (b : Word) (s : Perm) : Word := subst b (inverse Config.substitutionSize s)

/-- `encrypt(b, p, s)` of R144: Permute-1, Substitute, Permute-2 with the same `p` (R147). -/
def encrypt (b : Word) (p s : Perm) : Word :=
  let t1 := applyP b p
  let t2 := subst t1 s
  applyP t2 p

/-- `decrypt(c, p, s)` of R145, with inverses that are computed here and not stored (R37). -/
def decrypt (c : Word) (p s : Perm) : Word :=
  let pi := inverse Config.structuralSize p
  let u1 := applyP c pi
  let u2 := invSubst u1 s
  applyP u2 pi

/-- `ExecEnc` of R150. -/
def runEnc (p q : Nat) (s : State) : Except ErrCode Writes := do
  let key ← poolKey s p q
  pure (.blockOut (encrypt s.blockIn key.1 key.2))

/-- `ExecDec` of R151. -/
def runDec (p q : Nat) (s : State) : Except ErrCode Writes := do
  let key ← poolKey s p q
  pure (.blockOut (decrypt s.blockIn key.1 key.2))

/-- `ExecPApply` of R152. -/
def runPApply (s : State) : Except ErrCode Writes := do
  let p ← hostPerm Config.structuralSize s
  pure (.blockOut (applyP s.blockIn p))

/-- `ExecSApply` of R153. -/
def runSApply (s : State) : Except ErrCode Writes := do
  let p ← hostPerm Config.substitutionSize s
  pure (.blockOut (subst s.blockIn p))

/-- `ENC p, q` (R150). -/
def execEnc (p q : Nat) (s : State) : Host.Outcome State Fault Refusal := complete s (runEnc p q s)

/-- `DEC p, q` (R151). -/
def execDec (p q : Nat) (s : State) : Host.Outcome State Fault Refusal := complete s (runDec p q s)

/-- `PAPPLY` (R152). -/
def execPApply (s : State) : Host.Outcome State Fault Refusal := complete s (runPApply s)

/-- `SAPPLY` (R153). -/
def execSApply (s : State) : Host.Outcome State Fault Refusal := complete s (runSApply s)

end Sys2Proof.Machine
end

