-- ==== Sys2Proof/Machine/Dispatch.lean ====
section
/-! DEFINITION. `Exec` of R90 with the completion of R65: one arm per command. -/

namespace Sys2Proof.Machine

def exec (i : Instr) (s : State) : Host.Outcome State Fault Refusal :=
  match i with
  | .build => Sys2Proof.Machine.execBuild s
  | .enc p q => Sys2Proof.Machine.execEnc p q s
  | .dec p q => Sys2Proof.Machine.execDec p q s
  | .invP => Sys2Proof.Machine.execInvP s
  | .invS => Sys2Proof.Machine.execInvS s
  | .rdp p => Sys2Proof.Machine.execRdp p s
  | .rds k => Sys2Proof.Machine.execRds k s
  | .papply => Sys2Proof.Machine.execPApply s
  | .sapply => Sys2Proof.Machine.execSApply s

end Sys2Proof.Machine
end

