-- ==== Sys2Proof/Machine/Sequencer.lean ====
section
/-! DEFINITION. The command sequencer: the completion step (R65), which decodes the accepted word only now (R64, R85). -/

namespace Sys2Proof.Machine

/-- Complete the command in `CMD`: a legal word runs its command, an illegal one fails with `IllegalCommand` (R85, R90). -/
def completeCommand (s : State) : Host.Outcome State Fault Refusal :=
  match decode s.cmd with
  | .ok i => exec i s
  | .error _ => complete s (.error .illegalCommand)

/-- The sequencer's turn: the completion step is enabled exactly when `BUSY = 1` (R65); otherwise it is idle (R195). -/
def sequencerTurn (s : State) : Host.Outcome State Fault Refusal :=
  if s.busy then completeCommand s else .next s

end Sys2Proof.Machine
end

