-- ==== Sys2Proof/Machine/Step.lean ====
section
/-! DEFINITION. One step of the block: the next event of the total order of R69, or, when no event is pending,
the sequencer's turn, so that every accepted command completes (R65, R219). -/

namespace Sys2Proof.Machine

/-- One step (R65, R69, R190, R210). -/
def step (s : State) : Host.Outcome State Fault Refusal :=
  match s.inputs with
  | [] => sequencerTurn s
  | .turn :: rest => sequencerTurn { s with inputs := rest }
  | .access a :: rest => hostAccess { s with inputs := rest } a
  | .reset :: rest => .next (resetBlock { s with inputs := rest })

/-- `s` with a command word accepted and the sequencer's turn next (R64): the block fetches nothing, so the word the
next step runs is the one in `CMD` while `BUSY = 1` (R25, R38; log entry 6). -/
def State.withFetchWord (s : State) (_nbits w : Nat) : State :=
  { s.accept (BitVec.ofNat 32 w) with inputs := .turn :: s.inputs }

end Sys2Proof.Machine
end

