-- ==== Sys2Proof/Safety.lean ====
section
/-! DEFINITION. What a good state and a safe run are, in the terms the statements use: the invariants of R24 and R34,
and the premise "no bus error" of R186. -/

namespace Sys2Proof

/-- The pool invariant of R34: `N` entries in each pool, every one a bijection of its domain and not the identity.
Entries may repeat (C1). -/
def Machine.Pools.wf (n : Nat) (p : Machine.Pools) : Bool :=
  p.structural.length == n && p.substitution.length == n &&
  p.structural.all (fun q => Machine.isBij 32 q && q != Machine.identity 32) &&
  p.substitution.all (fun q => Machine.isBij 16 q && q != Machine.identity 16)

/-- The codes a `STATUS` read can show: 0 and 2 to 7; code 1 and codes 8 to 15 are never produced (R181, U8). -/
def errcodeKnown (c : BitVec 4) : Bool := c == 0 || (decide (2 ≤ c.toNat) && decide (c.toNat ≤ 7))

/-- The invariant of the block: parameters in the ranges of R5, the three `STATUS` implications of R24, known error codes,
pools as R34 says whenever they are built, and every `PERM_OUT` entry below 32 (R32). -/
structure Machine.State.Inv (s : Machine.State) : Prop where
  params_wf : s.params.wf = true
  err_done : s.err = true → s.done = true
  err_errcode : s.err = false ↔ s.errcode = 0
  errcode_known : errcodeKnown s.errcode = true
  busy_clear : s.busy = true → s.done = false ∧ s.err = false
  pools_wf : ∀ p, s.pools = some p → p.wf s.params.n = true
  permOut_small : ∀ e, e < 32 → (Machine.entry s.permOut e).toNat < 32

/-- It is the sequencer's turn: a turn event is first (R65), or nothing is pending (log entry 4). -/
def Machine.State.SequencerNext (s : Machine.State) : Prop :=
  s.inputs = [] ∨ ∃ rest, s.inputs = .turn :: rest

/-- An event that gets no error response: not an access that R61 or R62 rejects, nor one outside the window. -/
def Machine.Input.noBusError (p : Params) : Machine.Input → Bool
  | .access a =>
    match a.target p with
    | .ok _ => true
    | .error _ => false
  | .turn => true
  | .reset => true

/-- The premise of R186 for everything still to come. -/
def Machine.State.NoBusError (s : Machine.State) : Prop :=
  ∀ x ∈ s.inputs, x.noBusError s.params = true

/-- A run of `k` steps that no bus error stops. -/
def SafeRun (k : Nat) (s : Machine.State) : Prop := ∃ t, Host.Core.run core k s = .next t

end Sys2Proof
end

