-- ==== Sys2Proof/Certificates/Slice0/Obligations.lean ====
section
/-! DEFINITION. The statements about the block, each from a numbered rule of the spec.
`Spec.done s` and `Spec.failed s c` are the two completions of R65 written out again here, so that the statements do not
lean on the model's own operations: `s` with the `STATUS` fields of a successful and of a failed completion, and nothing else. -/

open Sys2Proof Sys2Proof.Machine

/-! ## Words the statements use -/

/-- A successful completion of R65: `DONE <- 1`, `BUSY <- 0`, `ERR <- 0`, `ERRCODE <- 0`. -/
def Sys2Proof.Spec.done (s : State) : State := { s with busy := false, done := true, err := false, errcode := 0 }

/-- A failed completion of R65 and R185: `DONE <- 1`, `BUSY <- 0`, `ERR <- 1`, `ERRCODE <- c`. -/
def Sys2Proof.Spec.failed (s : State) (c : BitVec 4) : State :=
  { s with busy := false, done := true, err := true, errcode := c }

/-- `s` where the next event is the host's read of offset `off`. -/
def Sys2Proof.Spec.reading (s : State) (off : Nat) (rest : List Input) : State :=
  { s with inputs := .access (memRead s.params off) :: rest }

/-- `s` where the next event is the host's write of `v` to offset `off`. -/
def Sys2Proof.Spec.writing (s : State) (off : Nat) (v : Word) (rest : List Input) : State :=
  { s with inputs := .access (memWrite s.params off v) :: rest }

/-- `a(e)` of R131: entry `e` of `PERM_IN`, written out from R31. -/
def Sys2Proof.Spec.hostEntry (s : State) (e : Nat) : Nat :=
  ((s.permIn[e / 4]?.getD 0).toNat / 2 ^ (8 * (e % 4))) % 256

/-- Entry `e` of `PERM_OUT`, written out from R31 and R32. -/
def Sys2Proof.Spec.resultEntry (s : State) (e : Nat) : Nat :=
  ((s.permOut[e / 4]?.getD 0).toNat / 2 ^ (8 * (e % 4))) % 256

/-- `permInOk(L)` of R131, written out. -/
def Sys2Proof.Spec.hostPermOk (L : Nat) (s : State) : Prop :=
  (∀ e, e < L → Spec.hostEntry s e < L) ∧
  (∀ e e', e < L → e' < L → e ≠ e' → Spec.hostEntry s e ≠ Spec.hostEntry s e')

/-- The stream state after `k` draws from `rs` (R102). -/
def Sys2Proof.Spec.afterDraws {σ : Type} (g : Prng σ) (k : Nat) (rs : σ) : σ := (fun r => (g.next r).2)^[k] rs

/-- The word that draw number `k` (counted from 0) from `rs` returns (R102). -/
def Sys2Proof.Spec.draw {σ : Type} (g : Prng σ) (k : Nat) (rs : σ) : Word := (g.next (Spec.afterDraws g k rs)).1

/-- The stream state after `k` attempts from `rs` (R104: rejected draws stay consumed). -/
def Sys2Proof.Spec.afterAttempts {σ : Type} (g : Prng σ) (L n k : Nat) (rs : σ) : σ :=
  (fun r => (attempt g L n r).2)^[k] rs

/-- The five points of R85, on the bits of the word. -/
def Sys2Proof.Spec.illegal (w : Word) : Prop :=
  let v := w.toNat
  let op := v % 16
  let d := v / 16 % 2
  let rsv0 := v / 32 % 8
  let pidx := v / 256 % 256
  let sidx := v / 65536 % 256
  let rsv1 := v / 16777216
  rsv0 ≠ 0 ∨ rsv1 ≠ 0 ∨ (op = 0 ∨ 8 ≤ op) ∨ (d = 1 ∧ op ≠ 4 ∧ op ≠ 5) ∨
  ((op = 1 ∨ op = 4 ∨ op = 6 ∨ op = 7) ∧ (pidx ≠ 0 ∨ sidx ≠ 0)) ∨
  (op = 5 ∧ d = 0 ∧ sidx ≠ 0) ∨ (op = 5 ∧ d = 1 ∧ pidx ≠ 0)

/-- The codes that R184 lets a command raise after decoding. -/
def Sys2Proof.Spec.mayRaise : Instr → List (BitVec 4)
  | .build => [6, 7]
  | .enc _ _ | .dec _ _ | .rdp _ | .rds _ => [5, 2]
  | .invP | .invS | .papply | .sapply => [3]

/-! ## Encoding -/

/-- No bit of an encoding is dropped: decoding the word of a well-formed command gives it back (R83, R86, R89). -/
def Obligations.DecodeOfEncodeIsIdentity : Prop :=
  ∀ i : Instr, i.wf = true → decode (encode i) = .ok i

/-- Each legal word stands for one command and is that command's encoding (R83, R86). -/
def Obligations.EncodeOfDecodeIsIdentity : Prop :=
  ∀ (w : Word) (i : Instr), decode w = .ok i → encode i = w ∧ i.wf = true

/-- R83: the map selects by `w AND mask = match`, at most one row matches, any other word is illegal, and the operand fields
are `PIDX` in bits 15:8 and `SIDX` in bits 23:16. -/
def Obligations.DecodeAgreesWithOpcodeMap : Prop :=
  ∀ w : Word,
    (∀ r ∈ opcodeMap, (w &&& r.mask = r.matchWord ↔ ∃ i, decode w = .ok i ∧ i.mnemonic = r.mnemonic)) ∧
    (∀ r ∈ opcodeMap, ∀ r' ∈ opcodeMap, w &&& r.mask = r.matchWord → w &&& r'.mask = r'.matchWord → r = r') ∧
    ((∀ r ∈ opcodeMap, w &&& r.mask ≠ r.matchWord) ↔ ∃ e, decode w = .error e) ∧
    (∀ p s, decode w = .ok (.enc p s) ∨ decode w = .ok (.dec p s) →
      p = w.toNat / 256 % 256 ∧ s = w.toNat / 65536 % 256) ∧
    (∀ p, decode w = .ok (.rdp p) → p = w.toNat / 256 % 256) ∧
    (∀ s, decode w = .ok (.rds s) → s = w.toNat / 65536 % 256)

/-- R85: the illegal words are exactly those of its five points; one is accepted like any other, and its completion raises
code 4 and writes nothing else; the reset value of `CMD` is illegal and reset leaves `BUSY = 0`. -/
def Obligations.IllegalWordsFailWithCode4 : Prop :=
  (∀ w : Word, (∃ e, decode w = .error e) ↔ Spec.illegal w) ∧
  (∀ (s : State) (v : Word) (rest : List Input), s.busy = false → Spec.illegal v →
    step (Spec.writing s 0x00 v rest) = .next { s with
      inputs := rest, reply := some .ack, cmd := v, busy := true, done := false, err := false, errcode := 0, wdrop := false }) ∧
  (∀ (s : State) (rest : List Input), s.busy = true → Spec.illegal s.cmd →
    step { s with inputs := .turn :: rest } = .next (Spec.failed { s with inputs := rest } 4)) ∧
  Spec.illegal State.reset.cmd ∧ State.reset.busy = false

/-- R89: the encodings of the assembler, and that it refuses exactly an index outside 0..255. -/
def Obligations.AssemblerEncodings : Prop :=
  (assemble .build = some 0x00000001 ∧ assemble .invP = some 0x00000004 ∧ assemble .invS = some 0x00000014 ∧
    assemble .papply = some 0x00000006 ∧ assemble .sapply = some 0x00000007) ∧
  (∀ p s : Nat, p < 256 → s < 256 →
    assemble (.enc p s) = some (BitVec.ofNat 32 s <<< 16 ||| BitVec.ofNat 32 p <<< 8 ||| 0x2) ∧
    assemble (.dec p s) = some (BitVec.ofNat 32 s <<< 16 ||| BitVec.ofNat 32 p <<< 8 ||| 0x3) ∧
    assemble (.rdp p) = some (BitVec.ofNat 32 p <<< 8 ||| 0x5) ∧
    assemble (.rds s) = some (BitVec.ofNat 32 s <<< 16 ||| 0x15)) ∧
  (∀ p s : Nat, 256 ≤ p ∨ 256 ≤ s → assemble (.enc p s) = none ∧ assemble (.dec p s) = none) ∧
  (∀ k : Nat, 256 ≤ k → assemble (.rdp k) = none ∧ assemble (.rds k) = none)

/-- Words written out from R81 and R83 decode to the commands they stand for (vectors 2.5). -/
def Obligations.SpecWordsDecode : Prop :=
  decode 0x00000001 = .ok .build ∧ decode 0x00021402 = .ok (.enc 20 2) ∧ decode 0x00021403 = .ok (.dec 20 2) ∧
  decode 0x00000014 = .ok .invS ∧ decode 0x00001405 = .ok (.rdp 20) ∧ decode 0x00010015 = .ok (.rds 1) ∧
  decode 0x00000006 = .ok .papply ∧ (decode 0x01021402).toOption = none ∧ (decode 0x00010016).toOption = none

/-! ## Steps, the bus and the registers -/

/-- A step in the sequencer's turn runs the command that the word in `CMD` encodes, when `BUSY = 1`; it does nothing when
`BUSY = 0` (R65, R90, R195). That the sequencer has the turn when no event is pending is the model's choice (log entry 4). -/
def Obligations.StepRunsDecodedCommand : Prop :=
  (∀ (s : State) (i : Instr) (rest : List Input), s.busy = true → decode s.cmd = .ok i →
    step { s with inputs := .turn :: rest } = exec i { s with inputs := rest } ∧
    step { s with inputs := [] } = exec i { s with inputs := [] }) ∧
  (∀ (s : State) (rest : List Input), s.busy = false →
    step { s with inputs := .turn :: rest } = .next { s with inputs := rest } ∧
    step { s with inputs := [] } = .next { s with inputs := [] })

/-- Every turn of a busy block is a completion (R65): it answers a next state, with `BUSY` clear, `DONE` set, `ERR` set exactly
when there is a code, and everything the host wrote unchanged. A turn is a turn event, or no event pending: the second is the model's
choice (log entry 4). -/
def Obligations.BusyTurnCompletes : Prop :=
  ∀ s : State, s.busy = true → s.SequencerNext →
    ∃ t, step s = .next t ∧ t.busy = false ∧ t.done = true ∧ (t.err = false ↔ t.errcode = 0) ∧
      t.params = s.params ∧ t.cmd = s.cmd ∧ t.seed = s.seed ∧ t.blockIn = s.blockIn ∧ t.permIn = s.permIn ∧
      t.wdrop = s.wdrop ∧ t.inputs = s.inputs.tail

/-- R64: a write of `CMD` is dropped while `BUSY = 1` and accepted otherwise. -/
def Obligations.CommandWriteAcceptedOrDropped : Prop :=
  ∀ (s : State) (v : Word) (rest : List Input),
    (s.busy = true → step (Spec.writing s 0x00 v rest) =
      .next { s with inputs := rest, reply := some .ack, wdrop := true }) ∧
    (s.busy = false → step (Spec.writing s 0x00 v rest) =
      .next { s with inputs := rest, reply := some .ack, cmd := v, busy := true, done := false, err := false,
                     errcode := 0, wdrop := false })

/-- R66: a write of an operand register takes the whole word when `BUSY = 0`; while `BUSY = 1` it is dropped and sets `WDROP`. -/
def Obligations.OperandWrites : Prop :=
  ∀ (s : State) (v : Word) (rest : List Input),
    (s.busy = false →
      step (Spec.writing s 0x08 v rest) = .next { s with inputs := rest, reply := some .ack, seed := v } ∧
      step (Spec.writing s 0x0C v rest) = .next { s with inputs := rest, reply := some .ack, blockIn := v } ∧
      ∀ k : Fin 8, step (Spec.writing s (0x20 + 4 * k) v rest) =
        .next { s with inputs := rest, reply := some .ack, permIn := s.permIn.set k v }) ∧
    (s.busy = true → ∀ off, off = 0x08 ∨ off = 0x0C ∨ (0x20 ≤ off ∧ off ≤ 0x3C ∧ off % 4 = 0) →
      step (Spec.writing s off v rest) = .next { s with inputs := rest, reply := some .ack, wdrop := true })

/-- R63: a word write to a read-only register completes, changes nothing and does not set `WDROP`. -/
def Obligations.ReadOnlyWritesIgnored : Prop :=
  ∀ (s : State) (v : Word) (rest : List Input) (off : Nat),
    off = 0x04 ∨ off = 0x10 ∨ off = 0x14 ∨ (0x40 ≤ off ∧ off ≤ 0x5C ∧ off % 4 = 0) →
    step (Spec.writing s off v rest) = .next { s with inputs := rest, reply := some .ack }

/-- R61, R62: which accesses to the window get an error response (a fault of the host, R186), and that every other one is answered. -/
def Obligations.BusErrorsExactly : Prop :=
  ∀ (s : State) (a : Access) (rest : List Input), s.params.base ≤ a.addr → a.addr < s.params.base + 0x100 →
    (a.size ≠ 4 ∨ a.beats ≠ 1 ∨ (a.addr - s.params.base) % 4 ≠ 0 →
      step { s with inputs := .access a :: rest } = .fault .busErrorShape) ∧
    (a.size = 4 → a.beats = 1 → (a.addr - s.params.base) % 4 = 0 →
      (a.addr - s.params.base = 0x18 ∨ a.addr - s.params.base = 0x1C ∨ 0x60 ≤ a.addr - s.params.base →
        step { s with inputs := .access a :: rest } = .fault .busErrorReserved) ∧
      (a.addr - s.params.base < 0x18 ∨ (0x20 ≤ a.addr - s.params.base ∧ a.addr - s.params.base < 0x60) →
        ∃ t, step { s with inputs := .access a :: rest } = .next t))

/-- R67 with the map of R22: a read returns the register's current value and changes nothing of the block, busy or not. -/
def Obligations.ReadsReturnRegisters : Prop :=
  ∀ (s : State) (rest : List Input),
    let answer := fun (v : Word) => (Host.Outcome.next { s with inputs := rest, reply := some (.data v) } : Host.Outcome State Fault Refusal)
    step (Spec.reading s 0x00 rest) = answer s.cmd ∧
    step (Spec.reading s 0x04 rest) = answer s.statusWord ∧
    step (Spec.reading s 0x08 rest) = answer s.seed ∧
    step (Spec.reading s 0x0C rest) = answer s.blockIn ∧
    step (Spec.reading s 0x10 rest) = answer s.blockOut ∧
    step (Spec.reading s 0x14 rest) = answer (infoWord s.params) ∧
    (∀ k : Fin 8, step (Spec.reading s (0x20 + 4 * k) rest) = answer s.permIn[k]) ∧
    (∀ k : Fin 8, step (Spec.reading s (0x40 + 4 * k) rest) = answer s.permOut[k])

/-- R24: where each field stands in `STATUS`, and that the reserved bits read 0. -/
def Obligations.StatusLayout : Prop :=
  ∀ s : State,
    s.statusWord.getLsbD 0 = s.busy ∧ s.statusWord.getLsbD 1 = s.done ∧ s.statusWord.getLsbD 2 = s.err ∧
    s.statusWord.getLsbD 3 = s.pools.isSome ∧ s.statusWord.getLsbD 4 = s.wdrop ∧
    (∀ k, 5 ≤ k → k < 8 → s.statusWord.getLsbD k = false) ∧
    (∀ k, k < 4 → s.statusWord.getLsbD (8 + k) = s.errcode.getLsbD k) ∧
    (∀ k, 12 ≤ k → s.statusWord.getLsbD k = false)

/-- R28: the fields of `INFO`, its value at the defaults, and that no step changes it. -/
def Obligations.InfoLayout : Prop :=
  (∀ p : Params, p.wf = true →
    (infoWord p).toNat = 32 + 16 * 256 + (p.n - 1) * 65536 + p.swapCount * 16777216) ∧
  infoWord Params.default = 0x401F1020 ∧
  (∀ s t : State, step s = .next t → infoWord t.params = infoWord s.params)

/-- R22: the registers stand at different offsets, and the map finds each one back. -/
def Obligations.RegisterMapRoundTrip : Prop :=
  (∀ r : Reg, Reg.ofOffset r.offset = some r) ∧
  (∀ (off : Nat) (r : Reg), off % 4 = 0 → Reg.ofOffset off = some r → r.offset = off)

/-- R218: a read right after a write of an operand register returns the new value. -/
def Obligations.ReadAfterOperandWrite : Prop :=
  ∀ (s : State) (v : Word) (rest : List Input) (off : Nat), s.busy = false →
    off = 0x08 ∨ off = 0x0C ∨ (0x20 ≤ off ∧ off ≤ 0x3C ∧ off % 4 = 0) →
    ∃ t, Host.Core.run core 2 (Spec.writing s off v (.access (memRead s.params off) :: rest)) = .next t ∧
      t.reply = some (.data v) ∧ t.inputs = rest

/-! ## Reset and whole-machine rules -/

/-- R211: the value of every piece of state after reset, at any time and also while a command runs (R210), and in `State.reset`.
That reset keeps `inputs` (what is still to come) and clears `reply` is the model's choice (log entries 4 and 5). -/
def Obligations.ResetValues : Prop :=
  (∀ (s : State) (rest : List Input), step { s with inputs := .reset :: rest } =
    .next { params := s.params, cmd := 0, busy := false, done := false, err := false, errcode := 0, wdrop := false,
            seed := 0, blockIn := 0, blockOut := 0, permIn := #v[0, 0, 0, 0, 0, 0, 0, 0],
            permOut := #v[0, 0, 0, 0, 0, 0, 0, 0], pools := none, inputs := rest, reply := none }) ∧
  State.reset.statusWord = 0 ∧ State.reset.cmd = 0 ∧ State.reset.seed = 0 ∧ State.reset.blockIn = 0 ∧
  State.reset.blockOut = 0 ∧ infoWord State.reset.params = 0x401F1020 ∧ State.reset.pools = none ∧
  (∀ k : Fin 8, State.reset.permIn[k] = 0 ∧ State.reset.permOut[k] = 0)

/-- R27: `POOL_VALID` is 0 after reset, becomes 1 only at a successful `BUILD`, and then only reset clears it or changes the pools. -/
def Obligations.PoolsLockedUntilReset : Prop :=
  State.reset.pools = none ∧
  ∀ s t : State, step s = .next t →
    (∀ p, s.pools = some p → (∀ rest, s.inputs ≠ .reset :: rest) → t.pools = some p) ∧
    (∀ rest, s.inputs = .reset :: rest → t.pools = none) ∧
    (s.pools = none → t.pools ≠ none →
      s.busy = true ∧ s.SequencerNext ∧ decode s.cmd = .ok .build ∧ t.done = true ∧ t.err = false)

/-- R25, R71: while a command runs, its word and its operands cannot change. -/
def Obligations.OperandsStableWhileBusy : Prop :=
  ∀ s t : State, step s = .next t → s.busy = true → t.busy = true →
    t.cmd = s.cmd ∧ t.seed = s.seed ∧ t.blockIn = s.blockIn ∧ t.permIn = s.permIn ∧ t.pools = s.pools ∧
    t.blockOut = s.blockOut ∧ t.permOut = s.permOut ∧ t.params = s.params

/-- R26, R67: results change only at a completion step or at reset, and `DONE`, `ERR` and `ERRCODE` only there or at an accepted
`CMD` write (which is the only other step that changes `BUSY`). That a step with no event pending is a completion is the model's choice
(log entry 4). -/
def Obligations.ResultsChangeOnlyAtCompletion : Prop :=
  ∀ s t : State, step s = .next t → ¬(s.busy = true ∧ s.SequencerNext) → (∀ rest, s.inputs ≠ .reset :: rest) →
    t.blockOut = s.blockOut ∧ t.permOut = s.permOut ∧ t.pools = s.pools ∧
    ((t.done = s.done ∧ t.err = s.err ∧ t.errcode = s.errcode ∧ t.busy = s.busy ∧ t.cmd = s.cmd) ∨
     (s.busy = false ∧ t.busy = true ∧ t.done = false ∧ t.err = false ∧ t.errcode = 0 ∧
      ∃ a rest, s.inputs = .access a :: rest ∧ a.target s.params = .ok .cmd ∧ a.dir = .write t.cmd))

/-- R33, R217: `WDROP` is set only by a write to a writable register while `BUSY = 1`, and cleared only by an accepted `CMD` write or reset. -/
def Obligations.DroppedWriteFlag : Prop :=
  ∀ s t : State, step s = .next t →
    (s.wdrop = false → t.wdrop = true →
      s.busy = true ∧ ∃ a rest r v, s.inputs = .access a :: rest ∧ a.dir = .write v ∧
        a.target s.params = .ok r ∧ (r = .cmd ∨ r = .seed ∨ r = .blockIn ∨ ∃ k, r = .permIn k)) ∧
    (s.wdrop = true → t.wdrop = false →
      (∃ rest, s.inputs = .reset :: rest) ∨
      (s.busy = false ∧ t.busy = true ∧ ∃ a rest v, s.inputs = .access a :: rest ∧ a.dir = .write v ∧
        a.target s.params = .ok .cmd ∧ t.cmd = v))

/-- Every step keeps the invariant: the parameter ranges of R5, the `STATUS` implications of R24, the known error codes of R181,
the pool invariant of R34, and the bounds of `PERM_OUT` (R32). From every state that has it, not only from reset. -/
def Obligations.StepKeepsInvariant : Prop :=
  ∀ s t : State, s.Inv → step s = .next t → t.Inv

/-- The state right after reset has the invariant, for every parameter set of R5 and whatever is to come. -/
def Obligations.ResetHasInvariant : Prop :=
  State.reset.Inv ∧ ∀ (p : Params) (l : List Input), p.wf = true → (State.resetWith p l).Inv

/-- R65, R219: every accepted command completes (or is abandoned by a reset) after finitely many events, if no event gets a bus error
(the premise R186 asks for); no clock is involved. That the sequencer gets its turn when no event is pending is the model's form of
fairness (log entry 4). -/
def Obligations.AcceptedCommandCompletes : Prop :=
  ∀ s : State, s.busy = true → s.NoBusError →
    ∃ k t, k ≤ s.inputs.length + 1 ∧ Host.Core.run core k s = .next t ∧ t.busy = false

/-! ## The generator -/

/-- R101: `XS32` is the stream its pseudocode gives, its state is never 0, and its first four outputs are those listed. -/
def Obligations.Xs32Stream : Prop :=
  (∀ seed, xs32.init seed = if seed = 0 then 0x9E3779B9 else seed) ∧
  (∀ x, xs32.next x =
    let x1 := x ^^^ (x <<< 13)
    let x2 := x1 ^^^ (x1 >>> 17)
    let x3 := x2 ^^^ (x2 <<< 5)
    (x3, x3)) ∧
  (∀ seed k, Spec.afterDraws xs32 k (xs32.init seed) ≠ 0) ∧
  ((List.range 4).map fun k => Spec.draw xs32 k (xs32.init 42)) = [0x00AD4528, 0xA90A34AC, 0x1C67AF03, 0xD970C3C0] ∧
  ((List.range 4).map fun k => Spec.draw xs32 k (xs32.init 0)) = [0x510C4619, 0xE02E553E, 0x7BB98F3A, 0x0183A8B5] ∧
  ((List.range 4).map fun k => Spec.draw xs32 k (xs32.init 1)) = [0x00042021, 0x04080601, 0x9DCCA8C5, 0x1255994F]

/-- R103: one attempt is `SWAP_COUNT` swaps of the sequence, from the identity, swap `t` with the indices of draws `2t` and `2t + 1`
modulo `L`, and it makes exactly `2 × SWAP_COUNT` draws; for every stream. The swaps are written here on the sequence itself. -/
def Obligations.AttemptIsSwapsOfSuccessiveDraws : Prop :=
  ∀ {σ : Type} (g : Prng σ) (L n : Nat) (rs : σ), L = 32 ∨ L = 16 →
    (attempt g L n rs).1 =
      (List.range n).foldl (fun p t =>
        let i := (Spec.draw g (2 * t) rs).toNat % L
        let j := (Spec.draw g (2 * t + 1) rs).toNat % L
        (p.set i (permAt p j)).set j (permAt p i)) (List.range L) ∧
    (attempt g L n rs).2 = Spec.afterDraws g (2 * n) rs

/-- R104: `genPerm` gives the first attempt that is not the identity, among `MAX_ATTEMPTS`, with the draws of the rejected ones consumed;
it fails exactly when all of them are the identity. -/
def Obligations.FirstNonIdentityAttemptAccepted : Prop :=
  ∀ {σ : Type} (g : Prng σ) (L n cap : Nat) (rs : σ),
    (∀ d, genPerm g L n cap rs = some d ↔ ∃ a, a < cap ∧
      (∀ b, b < a → (attempt g L n (Spec.afterAttempts g L n b rs)).1 = List.range L) ∧
      (attempt g L n (Spec.afterAttempts g L n a rs)).1 ≠ List.range L ∧
      d = { value := (attempt g L n (Spec.afterAttempts g L n a rs)).1, attempts := a + 1,
            stream := Spec.afterAttempts g L n (a + 1) rs }) ∧
    (genPerm g L n cap rs = none ↔ ∀ b, b < cap → (attempt g L n (Spec.afterAttempts g L n b rs)).1 = List.range L)

/-- R105: one stream feeds the `N` structural entries in order and then the `N` substitution entries; if one of them fails, no pool is built. -/
def Obligations.PoolsFromOneStreamInOrder : Prop :=
  ∀ {σ : Type} (g : Prng σ) (p : Params) (seed : Word),
    let size := fun k => if k < p.n then 32 else 16
    (∀ d, genPools g p seed = some d → ∃ st : Nat → σ, st 0 = g.init seed ∧ st (2 * p.n) = d.stream ∧
      d.value.structural.length = p.n ∧ d.value.substitution.length = p.n ∧
      ∀ k, k < 2 * p.n → ∃ e, genPerm g (size k) p.swapCount p.maxAttempts (st k) = some e ∧ st (k + 1) = e.stream ∧
        (d.value.structural ++ d.value.substitution)[k]? = some e.value) ∧
    (genPools g p seed = none → ∃ (st : Nat → σ) (m : Nat), st 0 = g.init seed ∧ m < 2 * p.n ∧
      (∀ k, k < m → ∃ e, genPerm g (size k) p.swapCount p.maxAttempts (st k) = some e ∧ st (k + 1) = e.stream) ∧
      genPerm g (size m) p.swapCount p.maxAttempts (st m) = none)

/-- R109 (a), (b): every entry of built pools is a bijection of its domain and not the identity, for every stream and parameter set. -/
def Obligations.BuiltPoolsAreNonIdentityBijections : Prop :=
  ∀ {σ : Type} (g : Prng σ) (p : Params) (seed : Word) (d : Drawn σ Pools), genPools g p seed = some d →
    d.value.structural.length = p.n ∧ d.value.substitution.length = p.n ∧
    (∀ q ∈ d.value.structural, isBij 32 q = true ∧ q ≠ List.range 32) ∧
    (∀ q ∈ d.value.substitution, isBij 16 q = true ∧ q ≠ List.range 16)

/-- R109 (d), R110: a successful build makes exactly `2 × SWAP_COUNT × A` draws for its `A` attempts, and `2N ≤ A ≤ 2N × MAX_ATTEMPTS`. -/
def Obligations.BuildDrawCount : Prop :=
  ∀ {σ : Type} (g : Prng σ) (p : Params) (seed : Word) (d : Drawn σ Pools), genPools g p seed = some d →
    d.stream = Spec.afterDraws g (2 * p.swapCount * d.attempts) (g.init seed) ∧
    2 * p.n ≤ d.attempts ∧ d.attempts ≤ 2 * p.n * p.maxAttempts

/-- R106: `BUILD` fails with 6 when the pools are built; otherwise it commits the pools that `genPools` makes from the block's own
stream, started at `init(SEED)` (R102, R105), or fails with 7 and keeps nothing when generation reaches its cap. The clauses name the
stream: `XS32` of R101, or the platform's `k`-th stream; `generate` is the choice between them. Nothing else changes but the
completion fields. -/
def Obligations.BuildCommand : Prop :=
  encode .build = 0x00000001 ∧
  ∀ s : State,
    (s.pools ≠ none → exec .build s = .next (Spec.failed s 6)) ∧
    (s.pools = none → s.params.prng = .xs32 →
      (∀ d, genPools xs32 s.params s.seed = some d →
        exec .build s = .next (Spec.done { s with pools := some d.value })) ∧
      (genPools xs32 s.params s.seed = none → exec .build s = .next (Spec.failed s 7))) ∧
    (∀ k, s.pools = none → s.params.prng = .platform k →
      (∀ d, genPools (platformPrng k) s.params s.seed = some d →
        exec .build s = .next (Spec.done { s with pools := some d.value })) ∧
      (genPools (platformPrng k) s.params s.seed = none → exec .build s = .next (Spec.failed s 7))) ∧
    (∀ p, s.pools = none → generate s.params s.seed = some p →
      exec .build s = .next (Spec.done { s with pools := some p })) ∧
    (s.pools = none → generate s.params s.seed = none → exec .build s = .next (Spec.failed s 7))

/-- R100, R109 (c): what `BUILD` builds depends on nothing but `SEED` and the parameters. -/
def Obligations.BuildDependsOnlyOnSeedAndParameters : Prop :=
  ∀ s s' t t' : State, s.pools = none → s'.pools = none → s.seed = s'.seed →
    s.params.n = s'.params.n → s.params.swapCount = s'.params.swapCount →
    s.params.maxAttempts = s'.params.maxAttempts → s.params.prng = s'.params.prng →
    exec .build s = .next t → exec .build s' = .next t' → t.pools = t'.pools ∧ t.err = t'.err ∧ t.errcode = t'.errcode

/-- R107: `RDP p` copies structural entry `p` into `PERM_OUT`, and its two errors in their order. -/
def Obligations.RdpCommand : Prop :=
  (∀ p, p < 256 → encode (.rdp p) = BitVec.ofNat 32 p <<< 8 ||| 0x05) ∧
  ∀ (s : State) (p : Nat),
    (s.pools = none → exec (.rdp p) s = .next (Spec.failed s 5)) ∧
    (s.pools ≠ none → s.params.n ≤ p → exec (.rdp p) s = .next (Spec.failed s 2)) ∧
    (∀ pl, s.Inv → s.pools = some pl → p < s.params.n →
      ∃ t, exec (.rdp p) s = .next t ∧ t = Spec.done { s with permOut := t.permOut } ∧
        ∀ e, e < 32 → Spec.resultEntry t e = permAt (pl.structural.getD p []) e)

/-- R108: `RDS k` copies substitution entry `k` into `PERM_OUT` entries 0..15 and zeros the others; its two errors. -/
def Obligations.RdsCommand : Prop :=
  (∀ k, k < 256 → encode (.rds k) = BitVec.ofNat 32 k <<< 16 ||| 0x15) ∧
  ∀ (s : State) (k : Nat),
    (s.pools = none → exec (.rds k) s = .next (Spec.failed s 5)) ∧
    (s.pools ≠ none → s.params.n ≤ k → exec (.rds k) s = .next (Spec.failed s 2)) ∧
    (∀ pl, s.Inv → s.pools = some pl → k < s.params.n →
      ∃ t, exec (.rds k) s = .next t ∧ t = Spec.done { s with permOut := t.permOut } ∧
        (∀ e, e < 16 → Spec.resultEntry t e = permAt (pl.substitution.getD k []) e) ∧
        (∀ e, 16 ≤ e → e < 32 → Spec.resultEntry t e = 0))

/-! ## The inverter -/

/-- R131: the check on `PERM_IN` is the one its formula gives, it is bijectivity of the entries it examines, the identity passes, and
entries 16..31 are not examined for domain 16. -/
def Obligations.PermInCheckIsBijectivity : Prop :=
  ∀ (L : Nat) (s : State), L = 16 ∨ L = 32 →
    (permInOk L s = true ↔ Spec.hostPermOk L s) ∧
    (permInOk L s = true ↔ isBij L (permIn L s) = true) ∧
    (permIn L s = List.range L → permInOk L s = true) ∧
    (∀ s' : State, (∀ k, k < 4 → s'.permIn[k]? = s.permIn[k]?) → permInOk 16 s' = permInOk 16 s)

/-- R133: `INV.P` writes the inverse, `q(p(i)) = i` for every `i`, or fails with 3 and leaves `PERM_OUT`. -/
def Obligations.InvPCommand : Prop :=
  encode .invP = 0x00000004 ∧
  ∀ s : State,
    (¬ Spec.hostPermOk 32 s → exec .invP s = .next (Spec.failed s 3)) ∧
    (Spec.hostPermOk 32 s →
      ∃ t, exec .invP s = .next t ∧ t = Spec.done { s with permOut := t.permOut } ∧
        ∀ i, i < 32 → Spec.resultEntry t (Spec.hostEntry s i) = i)

/-- R134: `INV.S` writes the inverse of entries 0..15 and zeros entries 16..31, or fails with 3 and leaves `PERM_OUT`. -/
def Obligations.InvSCommand : Prop :=
  encode .invS = 0x00000014 ∧
  ∀ s : State,
    (¬ Spec.hostPermOk 16 s → exec .invS s = .next (Spec.failed s 3)) ∧
    (Spec.hostPermOk 16 s →
      ∃ t, exec .invS s = .next t ∧ t = Spec.done { s with permOut := t.permOut } ∧
        (∀ i, i < 16 → Spec.resultEntry t (Spec.hostEntry s i) = i) ∧
        (∀ e, 16 ≤ e → e < 32 → Spec.resultEntry t e = 0))

/-- R135: the laws of the inverse, for every bijection of any domain, and of the layer it undoes. -/
def Obligations.InverseLaws : Prop :=
  (∀ (L : Nat) (p : Perm), isBij L p = true →
    isBij L (inverse L p) = true ∧ inverse L (inverse L p) = p ∧ inverse L (List.range L) = List.range L ∧
    (inverse L p = List.range L → p = List.range L)) ∧
  (∀ (p : Perm) (b : Word), isBij 32 p = true →
    applyP (applyP b p) (inverse 32 p) = b ∧ applyP (applyP b (inverse 32 p)) p = b)

/-! ## The network core -/

/-- R141: the corner cases of the permutation layer. -/
def Obligations.PermutationLayerCornerCases : Prop :=
  (∀ b : Word, applyP b (List.range 32) = b) ∧
  (∀ p : Perm, isBij 32 p = true → applyP 0 p = 0 ∧ applyP 0xFFFFFFFF p = 0xFFFFFFFF) ∧
  (∀ (b : Word) (p : Perm), isBij 32 p = true →
    (List.range 32).countP (applyP b p).getLsbD = (List.range 32).countP b.getLsbD) ∧
  (∀ b : Word, applyP b ((List.range 32).map fun i => (i + 1) % 32) = b.rotateLeft 1) ∧
  (∀ b : Word, applyP b ((List.range 32).map fun i => 31 - i) = b.reverse) ∧
  applyP 0x80000000 ((List.range 32).map fun i => (i + 1) % 32) = 0x00000001 ∧
  applyP 0x12345678 ((List.range 32).map fun i => 31 - i) = 0x1E6A2C48

/-- R146: decryption undoes encryption and encryption undoes decryption, for every block and every pair of bijections. -/
def Obligations.EncryptDecryptRoundTrip : Prop :=
  ∀ (b : Word) (p s : Perm), isBij 32 p = true → isBij 16 s = true →
    decrypt (encrypt b p s) p s = b ∧ encrypt (decrypt b p s) p s = b

/-- R150: `ENC p, q` runs Permute-1, Substitute and Permute-2 on `BLOCK_IN`, each given here bit by bit or group by group, with its
errors in their order; on an error `BLOCK_OUT` is unchanged. The premise `s.Inv` rules out pool entries that are no bijections, which
no run has (R109; I7 gives code 3 there, log entry 8). -/
def Obligations.EncCommand : Prop :=
  (∀ p q, p < 256 → q < 256 → encode (.enc p q) = BitVec.ofNat 32 q <<< 16 ||| BitVec.ofNat 32 p <<< 8 ||| 0x02) ∧
  ∀ (s : State) (p q : Nat),
    (s.pools = none → exec (.enc p q) s = .next (Spec.failed s 5)) ∧
    (s.pools ≠ none → s.params.n ≤ p ∨ s.params.n ≤ q → exec (.enc p q) s = .next (Spec.failed s 2)) ∧
    (∀ pl, s.Inv → s.pools = some pl → p < s.params.n → q < s.params.n →
      ∃ (t : State) (t1 t2 : Word), exec (.enc p q) s = .next t ∧ t = Spec.done { s with blockOut := t.blockOut } ∧
        (∀ i, i < 32 → t1.getLsbD (31 - i) = s.blockIn.getLsbD (31 - permAt (pl.structural.getD p []) i)) ∧
        (∀ g, g < 8 → t2.toNat / 16 ^ (7 - g) % 16 = permAt (pl.substitution.getD q []) (t1.toNat / 16 ^ (7 - g) % 16)) ∧
        (∀ i, i < 32 → t.blockOut.getLsbD (31 - i) = t2.getLsbD (31 - permAt (pl.structural.getD p []) i)))

/-- R151: `DEC p, q` undoes Permute-2, Substitute and Permute-1 on `BLOCK_IN`, with the errors of `ENC`. -/
def Obligations.DecCommand : Prop :=
  (∀ p q, p < 256 → q < 256 → encode (.dec p q) = BitVec.ofNat 32 q <<< 16 ||| BitVec.ofNat 32 p <<< 8 ||| 0x03) ∧
  ∀ (s : State) (p q : Nat),
    (s.pools = none → exec (.dec p q) s = .next (Spec.failed s 5)) ∧
    (s.pools ≠ none → s.params.n ≤ p ∨ s.params.n ≤ q → exec (.dec p q) s = .next (Spec.failed s 2)) ∧
    (∀ pl, s.Inv → s.pools = some pl → p < s.params.n → q < s.params.n →
      ∃ (t : State) (u1 u2 : Word), exec (.dec p q) s = .next t ∧ t = Spec.done { s with blockOut := t.blockOut } ∧
        (∀ i, i < 32 → u1.getLsbD (31 - permAt (pl.structural.getD p []) i) = s.blockIn.getLsbD (31 - i)) ∧
        (∀ g, g < 8 → permAt (pl.substitution.getD q []) (u2.toNat / 16 ^ (7 - g) % 16) = u1.toNat / 16 ^ (7 - g) % 16) ∧
        (∀ i, i < 32 → t.blockOut.getLsbD (31 - permAt (pl.structural.getD p []) i) = u2.getLsbD (31 - i)))

/-- R152: `PAPPLY` applies `PERM_IN` as a structural layer, or fails with 3 and leaves `BLOCK_OUT`. -/
def Obligations.PapplyCommand : Prop :=
  encode .papply = 0x00000006 ∧
  ∀ s : State,
    (¬ Spec.hostPermOk 32 s → exec .papply s = .next (Spec.failed s 3)) ∧
    (Spec.hostPermOk 32 s →
      ∃ t, exec .papply s = .next t ∧ t = Spec.done { s with blockOut := t.blockOut } ∧
        ∀ i, i < 32 → t.blockOut.getLsbD (31 - i) = s.blockIn.getLsbD (31 - Spec.hostEntry s i))

/-- R153: `SAPPLY` applies entries 0..15 of `PERM_IN` as a substitution layer, or fails with 3 and leaves `BLOCK_OUT`. -/
def Obligations.SapplyCommand : Prop :=
  encode .sapply = 0x00000007 ∧
  ∀ s : State,
    (¬ Spec.hostPermOk 16 s → exec .sapply s = .next (Spec.failed s 3)) ∧
    (Spec.hostPermOk 16 s →
      ∃ t, exec .sapply s = .next t ∧ t = Spec.done { s with blockOut := t.blockOut } ∧
        ∀ g, g < 8 → t.blockOut.toNat / 16 ^ (7 - g) % 16 = Spec.hostEntry s (s.blockIn.toNat / 16 ^ (7 - g) % 16))

/-- The round trip of R146 on the machine: after `BUILD`, `ENC p, q` and then `DEC p, q` of its result give back the block, and the
other way round, for every pool key below `N`. -/
def Obligations.EncThenDecRestoresBlock : Prop :=
  ∀ (s : State) (p q : Nat), s.Inv → s.pools ≠ none → p < s.params.n → q < s.params.n →
    (∃ t u, exec (.enc p q) s = .next t ∧ exec (.dec p q) { t with blockIn := t.blockOut } = .next u ∧
      u.err = false ∧ u.blockOut = s.blockIn) ∧
    (∃ t u, exec (.dec p q) s = .next t ∧ exec (.enc p q) { t with blockIn := t.blockOut } = .next u ∧
      u.err = false ∧ u.blockOut = s.blockIn)

/-- R148: `ENC` and `DEC` are functions of `BLOCK_IN` and the two selected pool entries; no earlier command leaves a trace in the result. -/
def Obligations.CipherDependsOnlyOnBlockAndKey : Prop :=
  ∀ (s s' t t' : State) (pl pl' : Pools) (p q p' q' : Nat),
    s.pools = some pl → s'.pools = some pl' → s.blockIn = s'.blockIn →
    pl.structural.getD p [] = pl'.structural.getD p' [] → pl.substitution.getD q [] = pl'.substitution.getD q' [] →
    (exec (.enc p q) s = .next t → exec (.enc p' q') s' = .next t' → t.err = false → t'.err = false → t.blockOut = t'.blockOut) ∧
    (exec (.dec p q) s = .next t → exec (.dec p' q') s' = .next t' → t.err = false → t'.err = false → t.blockOut = t'.blockOut)

/-! ## Errors and frames of all commands -/

/-- R183, R185: a failed command changes `BUSY`, `DONE`, `ERR` and `ERRCODE` and nothing else. -/
def Obligations.FailedCommandWritesNothing : Prop :=
  ∀ (i : Instr) (s t : State), exec i s = .next t → t.err = true → t = Spec.failed s t.errcode

/-- R88: what each command may write when it succeeds; every other field but the completion fields is unchanged. -/
def Obligations.SuccessfulCommandFrame : Prop :=
  ∀ (i : Instr) (s t : State), exec i s = .next t → t.err = false →
    match i with
    | .build => t = Spec.done { s with pools := t.pools } ∧ t.pools ≠ none
    | .enc _ _ | .dec _ _ | .papply | .sapply => t = Spec.done { s with blockOut := t.blockOut }
    | .invP | .invS | .rdp _ | .rds _ => t = Spec.done { s with permOut := t.permOut }

/-- R181, R184: every command completes with success or with a code that the rule lets it raise; codes 1 and 8 to 15 never occur. -/
def Obligations.ErrorCodesPerCommand : Prop :=
  ∀ (i : Instr) (s : State), s.Inv →
    ∃ t, exec i s = .next t ∧ (t.err = false ∧ t.errcode = 0 ∨ t.err = true ∧ t.errcode ∈ Spec.mayRaise i)

/-- R187: issuing a failed command again on the state it left gives the same error. -/
def Obligations.ErrorsAreDeterministic : Prop :=
  ∀ (i : Instr) (s t : State) (v : Word), exec i s = .next t → t.err = true →
    ∃ u, exec i (t.accept v) = .next u ∧ u.err = true ∧ u.errcode = t.errcode
end

