-- ==== Sys2Proof/Laws/Operands.lean ====
section
/-! SUPPORT. One law per operand form: positions and groups read back what they were built from, entries read back what
was packed, and the two checks on permutations as propositions. -/

namespace Sys2Proof.Machine

/-! Positions and groups (R7, R8). -/

theorem getLsbD_fromPos_fold (f : Nat → Bool) (n k : Nat) (hn : n ≤ 32) (hk : k < 32) :
    ((List.range n).foldl (fun (acc : Word) i => acc ||| (BitVec.ofBool (f i)).setWidth 32 <<< (31 - i)) 0).getLsbD k =
      (decide (31 - k < n) && f (31 - k)) := by
  induction n with
  | zero => simp
  | succ n ih =>
    rw [List.range_succ, List.foldl_append, List.foldl_cons, List.foldl_nil, BitVec.getLsbD_or, ih (by omega)]
    simp only [BitVec.getLsbD_shiftLeft, BitVec.getLsbD_setWidth, BitVec.getLsbD_ofBool]
    by_cases h : 31 - k = n
    · have : k - (31 - n) = 0 := by omega
      have h2 : 31 - n ≤ k := by omega
      simp [h, this, hk, h2]
    · by_cases h3 : 31 - n ≤ k
      · have : k - (31 - n) ≠ 0 := by omega
        have h4 : (31 - k < n) ↔ (31 - k < n + 1) := by omega
        simp [this, h4]
      · have h4 : (31 - k < n) ↔ (31 - k < n + 1) := by omega
        simp [h4, show k < 31 - n by omega]

/-- Position `i` of a block built by R7 is `f i`. -/
theorem pos_fromPos (f : Nat → Bool) {i : Nat} (hi : i < 32) : pos (fromPos f) i = f i := by
  unfold pos fromPos
  rw [getLsbD_fromPos_fold f 32 (31 - i) (by omega) (by omega)]
  have : 31 - (31 - i) = i := by omega
  simp [this, hi]

/-- Two blocks with the same bit at every position are equal. -/
theorem word_ext_pos {a b : Word} (h : ∀ i, i < 32 → pos a i = pos b i) : a = b := by
  apply BitVec.eq_of_getLsbD_eq
  intro k hk
  have := h (31 - k) (by omega)
  unfold pos at this
  rwa [show 31 - (31 - k) = k by omega] at this

/-- Group `g` of a block built by R8 is `h g`. -/
theorem grp_fromGrp (h : Nat → BitVec 4) {g : Nat} (hg : g < 8) : grp (fromGrp h) g = h g := by
  have : g = 0 ∨ g = 1 ∨ g = 2 ∨ g = 3 ∨ g = 4 ∨ g = 5 ∨ g = 6 ∨ g = 7 := by omega
  unfold grp fromGrp
  rcases this with rfl | rfl | rfl | rfl | rfl | rfl | rfl | rfl <;>
    (apply BitVec.eq_of_getLsbD_eq
     intro k hk
     have : k = 0 ∨ k = 1 ∨ k = 2 ∨ k = 3 := by omega
     rcases this with rfl | rfl | rfl | rfl <;>
       simp only [BitVec.getLsbD_extractLsb', BitVec.getLsbD_cast, BitVec.getLsbD_append] <;> simp)

/-- Bit `k` of group `g` is word bit `28 - 4g + k`, that is, position `4g + 3 - k` (R8). -/
theorem getLsbD_grp (b : Word) (g k : Nat) (hk : k < 4) : (grp b g).getLsbD k = b.getLsbD (28 - 4 * g + k) := by
  unfold grp
  simp [hk]

/-- Two blocks with the same value in every group are equal. -/
theorem word_ext_grp {a b : Word} (h : ∀ g, g < 8 → grp a g = grp b g) : a = b := by
  apply BitVec.eq_of_getLsbD_eq
  intro k hk
  have := congrArg (fun x => x.getLsbD (k % 4)) (h (7 - k / 4) (by omega))
  simp only [getLsbD_grp _ _ _ (Nat.mod_lt k (by omega : 0 < 4))] at this
  rwa [show 28 - 4 * (7 - k / 4) + k % 4 = k by omega] at this

/-! Entries (R31, R32). -/

/-- Entry `e` of packed words is `f e`. -/
theorem entry_packEntries (f : Nat → Byte) {e : Nat} (he : e < 32) : entry (packEntries f) e = f e := by
  have hw : e / 4 < 8 := by omega
  have hr : e % 4 = 0 ∨ e % 4 = 1 ∨ e % 4 = 2 ∨ e % 4 = 3 := by omega
  have hs : (packEntries f)[e / 4]? = some ((f (4 * (e / 4) + 3) ++ f (4 * (e / 4) + 2) ++ f (4 * (e / 4) + 1) ++ f (4 * (e / 4))).cast rfl) := by
    unfold packEntries
    rw [Vector.getElem?_eq_getElem hw]
    simp
  unfold entry
  rw [hs, Option.getD_some]
  have key : ∀ a b c d : Byte,
      ((a ++ b ++ c ++ d).cast rfl : Word).extractLsb' 0 8 = d ∧ ((a ++ b ++ c ++ d).cast rfl : Word).extractLsb' 8 8 = c ∧
      ((a ++ b ++ c ++ d).cast rfl : Word).extractLsb' 16 8 = b ∧ ((a ++ b ++ c ++ d).cast rfl : Word).extractLsb' 24 8 = a := by
    intro a b c d
    refine ⟨?_, ?_, ?_, ?_⟩ <;>
      (apply BitVec.eq_of_getLsbD_eq
       intro k hk
       simp only [BitVec.getLsbD_extractLsb', BitVec.getLsbD_cast, BitVec.getLsbD_append, hk, decide_true, Bool.true_and]
       (repeat' split) <;> first | omega | (congr 1; omega))
  obtain ⟨k0, k1, k2, k3⟩ := key (f (4 * (e / 4) + 3)) (f (4 * (e / 4) + 2)) (f (4 * (e / 4) + 1)) (f (4 * (e / 4)))
  rcases hr with h | h | h | h <;> rw [h]
  · exact k0.trans (congrArg f (by omega))
  · exact k1.trans (congrArg f (by omega))
  · exact k2.trans (congrArg f (by omega))
  · exact k3.trans (congrArg f (by omega))

/-- Entry `e` of a result in `PERM_OUT` (R32). -/
theorem entry_packPerm (q : Perm) {e : Nat} (he : e < 32) : entry (packPerm q) e = BitVec.ofNat 8 (permAt q e) :=
  entry_packEntries _ he

/-! Permutations (R9). -/

/-- `isBij_L(p)`, as a proposition: `L` values, all below `L`, none twice. -/
theorem isBij_iff (L : Nat) (p : Perm) : isBij L p = true ↔ p.length = L ∧ (∀ v ∈ p, v < L) ∧ p.Nodup := by
  unfold isBij
  simp only [Bool.and_eq_true, beq_iff_eq, List.all_eq_true, decide_eq_true_eq, List.mem_range]
  constructor
  · rintro ⟨⟨hl, hb⟩, hc⟩
    refine ⟨hl, hb, List.nodup_iff_count_le_one.2 fun a => ?_⟩
    by_cases ha : a ∈ p
    · exact (hc a (hb a ha)).le
    · simp [List.count_eq_zero_of_not_mem ha]
  · rintro ⟨hl, hb, hn⟩
    refine ⟨⟨hl, hb⟩, fun v hv => List.count_eq_one_of_mem hn ?_⟩
    have hsub : p.toFinset ⊆ Finset.range L := fun x hx => Finset.mem_range.2 (hb x (List.mem_toFinset.1 hx))
    have heq : p.toFinset = Finset.range L :=
      Finset.eq_of_subset_of_card_le hsub (by simp [List.toFinset_card_of_nodup hn, hl])
    exact List.mem_toFinset.1 (heq ▸ Finset.mem_range.2 hv)

variable {L : Nat} {p : Perm}

theorem permAt_lt (h : isBij L p = true) {i : Nat} (hi : i < L) : permAt p i < L := by
  obtain ⟨hl, hb, -⟩ := (isBij_iff L p).1 h
  have hi' : i < p.length := by omega
  simp only [permAt, List.getD_eq_getElem?_getD, List.getElem?_eq_getElem hi', Option.getD_some]
  exact hb _ (List.getElem_mem hi')

theorem permAt_injective (h : isBij L p = true) {i j : Nat} (hi : i < L) (hj : j < L)
    (hij : permAt p i = permAt p j) : i = j := by
  obtain ⟨hl, -, hn⟩ := (isBij_iff L p).1 h
  have hi' : i < p.length := by omega
  have hj' : j < p.length := by omega
  simp only [permAt, List.getD_eq_getElem?_getD, List.getElem?_eq_getElem hi', List.getElem?_eq_getElem hj',
    Option.getD_some] at hij
  exact (List.Nodup.getElem_inj_iff hn).1 hij

theorem permAt_surjective (h : isBij L p = true) {v : Nat} (hv : v < L) : ∃ i, i < L ∧ permAt p i = v := by
  have hc : (List.range L).all (fun v => p.count v == 1) = true := by
    unfold isBij at h
    simp only [Bool.and_eq_true] at h
    exact h.2
  have hl := ((isBij_iff L p).1 h).1
  have hm : v ∈ p := by
    have := List.all_eq_true.1 hc v (List.mem_range.2 hv)
    exact List.count_pos_iff.1 (by have := beq_iff_eq.1 this; omega)
  obtain ⟨i, hi, rfl⟩ := List.getElem_of_mem hm
  exact ⟨i, by omega, by simp [permAt, hi]⟩

/-- `permInOk(L)` of R131, as a proposition. -/
theorem permInOk_iff (L : Nat) (s : State) : permInOk L s = true ↔
    (∀ e, e < L → permInEntry s e < L) ∧
    (∀ e e', e < L → e' < L → e ≠ e' → permInEntry s e ≠ permInEntry s e') := by
  unfold permInOk
  simp only [Bool.and_eq_true, List.all_eq_true, List.mem_range, decide_eq_true_eq, Bool.or_eq_true, beq_iff_eq,
    bne_iff_ne]
  refine and_congr_right fun _ => ⟨fun h e e' he he' hne => (h e he e' he').resolve_left hne, fun h e he e' he' => ?_⟩
  by_cases hne : e = e'
  · exact .inl hne
  · exact .inr (h e e' he he' hne)

theorem permAt_permIn (s : State) {e : Nat} (he : e < L) : permAt (permIn L s) e = permInEntry s e := by
  simp [permAt, permIn, he]

end Sys2Proof.Machine
end

