-- ==== Sys2Proof/Laws/State.lean ====
section
/-! SUPPORT. One lemma per field for each update of the state, so that no proof unfolds a record update. -/

namespace Sys2Proof.Machine

variable (s : State)

/-! An accepted `CMD` write (R64). -/

@[simp] theorem accept_params (v : Word) : (s.accept v).params = s.params := rfl
@[simp] theorem accept_cmd (v : Word) : (s.accept v).cmd = v := rfl
@[simp] theorem accept_busy (v : Word) : (s.accept v).busy = true := rfl
@[simp] theorem accept_done (v : Word) : (s.accept v).done = false := rfl
@[simp] theorem accept_err (v : Word) : (s.accept v).err = false := rfl
@[simp] theorem accept_errcode (v : Word) : (s.accept v).errcode = 0 := rfl
@[simp] theorem accept_wdrop (v : Word) : (s.accept v).wdrop = false := rfl
@[simp] theorem accept_seed (v : Word) : (s.accept v).seed = s.seed := rfl
@[simp] theorem accept_blockIn (v : Word) : (s.accept v).blockIn = s.blockIn := rfl
@[simp] theorem accept_blockOut (v : Word) : (s.accept v).blockOut = s.blockOut := rfl
@[simp] theorem accept_permIn (v : Word) : (s.accept v).permIn = s.permIn := rfl
@[simp] theorem accept_permOut (v : Word) : (s.accept v).permOut = s.permOut := rfl
@[simp] theorem accept_pools (v : Word) : (s.accept v).pools = s.pools := rfl
@[simp] theorem accept_inputs (v : Word) : (s.accept v).inputs = s.inputs := rfl
@[simp] theorem accept_reply (v : Word) : (s.accept v).reply = s.reply := rfl

/-! A dropped write (R33). -/

@[simp] theorem dropWrite_params : (s.dropWrite).params = s.params := rfl
@[simp] theorem dropWrite_cmd : (s.dropWrite).cmd = s.cmd := rfl
@[simp] theorem dropWrite_busy : (s.dropWrite).busy = s.busy := rfl
@[simp] theorem dropWrite_done : (s.dropWrite).done = s.done := rfl
@[simp] theorem dropWrite_err : (s.dropWrite).err = s.err := rfl
@[simp] theorem dropWrite_errcode : (s.dropWrite).errcode = s.errcode := rfl
@[simp] theorem dropWrite_wdrop : (s.dropWrite).wdrop = true := rfl
@[simp] theorem dropWrite_seed : (s.dropWrite).seed = s.seed := rfl
@[simp] theorem dropWrite_blockIn : (s.dropWrite).blockIn = s.blockIn := rfl
@[simp] theorem dropWrite_blockOut : (s.dropWrite).blockOut = s.blockOut := rfl
@[simp] theorem dropWrite_permIn : (s.dropWrite).permIn = s.permIn := rfl
@[simp] theorem dropWrite_permOut : (s.dropWrite).permOut = s.permOut := rfl
@[simp] theorem dropWrite_pools : (s.dropWrite).pools = s.pools := rfl
@[simp] theorem dropWrite_inputs : (s.dropWrite).inputs = s.inputs := rfl
@[simp] theorem dropWrite_reply : (s.dropWrite).reply = s.reply := rfl

/-! A successful completion (R65). -/

@[simp] theorem finishOk_params : (s.finishOk).params = s.params := rfl
@[simp] theorem finishOk_cmd : (s.finishOk).cmd = s.cmd := rfl
@[simp] theorem finishOk_busy : (s.finishOk).busy = false := rfl
@[simp] theorem finishOk_done : (s.finishOk).done = true := rfl
@[simp] theorem finishOk_err : (s.finishOk).err = false := rfl
@[simp] theorem finishOk_errcode : (s.finishOk).errcode = 0 := rfl
@[simp] theorem finishOk_wdrop : (s.finishOk).wdrop = s.wdrop := rfl
@[simp] theorem finishOk_seed : (s.finishOk).seed = s.seed := rfl
@[simp] theorem finishOk_blockIn : (s.finishOk).blockIn = s.blockIn := rfl
@[simp] theorem finishOk_blockOut : (s.finishOk).blockOut = s.blockOut := rfl
@[simp] theorem finishOk_permIn : (s.finishOk).permIn = s.permIn := rfl
@[simp] theorem finishOk_permOut : (s.finishOk).permOut = s.permOut := rfl
@[simp] theorem finishOk_pools : (s.finishOk).pools = s.pools := rfl
@[simp] theorem finishOk_inputs : (s.finishOk).inputs = s.inputs := rfl
@[simp] theorem finishOk_reply : (s.finishOk).reply = s.reply := rfl

/-! A failed completion (R65). -/

@[simp] theorem finishErr_params (e : ErrCode) : (s.finishErr e).params = s.params := rfl
@[simp] theorem finishErr_cmd (e : ErrCode) : (s.finishErr e).cmd = s.cmd := rfl
@[simp] theorem finishErr_busy (e : ErrCode) : (s.finishErr e).busy = false := rfl
@[simp] theorem finishErr_done (e : ErrCode) : (s.finishErr e).done = true := rfl
@[simp] theorem finishErr_err (e : ErrCode) : (s.finishErr e).err = true := rfl
@[simp] theorem finishErr_errcode (e : ErrCode) : (s.finishErr e).errcode = e.code := rfl
@[simp] theorem finishErr_wdrop (e : ErrCode) : (s.finishErr e).wdrop = s.wdrop := rfl
@[simp] theorem finishErr_seed (e : ErrCode) : (s.finishErr e).seed = s.seed := rfl
@[simp] theorem finishErr_blockIn (e : ErrCode) : (s.finishErr e).blockIn = s.blockIn := rfl
@[simp] theorem finishErr_blockOut (e : ErrCode) : (s.finishErr e).blockOut = s.blockOut := rfl
@[simp] theorem finishErr_permIn (e : ErrCode) : (s.finishErr e).permIn = s.permIn := rfl
@[simp] theorem finishErr_permOut (e : ErrCode) : (s.finishErr e).permOut = s.permOut := rfl
@[simp] theorem finishErr_pools (e : ErrCode) : (s.finishErr e).pools = s.pools := rfl
@[simp] theorem finishErr_inputs (e : ErrCode) : (s.finishErr e).inputs = s.inputs := rfl
@[simp] theorem finishErr_reply (e : ErrCode) : (s.finishErr e).reply = s.reply := rfl

/-! The write of a successful `BUILD` (R106). -/

@[simp] theorem apply_pools_params (p : Pools) : ((Writes.pools p).apply s).params = s.params := rfl
@[simp] theorem apply_pools_cmd (p : Pools) : ((Writes.pools p).apply s).cmd = s.cmd := rfl
@[simp] theorem apply_pools_busy (p : Pools) : ((Writes.pools p).apply s).busy = s.busy := rfl
@[simp] theorem apply_pools_done (p : Pools) : ((Writes.pools p).apply s).done = s.done := rfl
@[simp] theorem apply_pools_err (p : Pools) : ((Writes.pools p).apply s).err = s.err := rfl
@[simp] theorem apply_pools_errcode (p : Pools) : ((Writes.pools p).apply s).errcode = s.errcode := rfl
@[simp] theorem apply_pools_wdrop (p : Pools) : ((Writes.pools p).apply s).wdrop = s.wdrop := rfl
@[simp] theorem apply_pools_seed (p : Pools) : ((Writes.pools p).apply s).seed = s.seed := rfl
@[simp] theorem apply_pools_blockIn (p : Pools) : ((Writes.pools p).apply s).blockIn = s.blockIn := rfl
@[simp] theorem apply_pools_blockOut (p : Pools) : ((Writes.pools p).apply s).blockOut = s.blockOut := rfl
@[simp] theorem apply_pools_permIn (p : Pools) : ((Writes.pools p).apply s).permIn = s.permIn := rfl
@[simp] theorem apply_pools_permOut (p : Pools) : ((Writes.pools p).apply s).permOut = s.permOut := rfl
@[simp] theorem apply_pools_pools (p : Pools) : ((Writes.pools p).apply s).pools = some p := rfl
@[simp] theorem apply_pools_inputs (p : Pools) : ((Writes.pools p).apply s).inputs = s.inputs := rfl
@[simp] theorem apply_pools_reply (p : Pools) : ((Writes.pools p).apply s).reply = s.reply := rfl

/-! The write of `BLOCK_OUT` (R30). -/

@[simp] theorem apply_blockOut_params (b : Word) : ((Writes.blockOut b).apply s).params = s.params := rfl
@[simp] theorem apply_blockOut_cmd (b : Word) : ((Writes.blockOut b).apply s).cmd = s.cmd := rfl
@[simp] theorem apply_blockOut_busy (b : Word) : ((Writes.blockOut b).apply s).busy = s.busy := rfl
@[simp] theorem apply_blockOut_done (b : Word) : ((Writes.blockOut b).apply s).done = s.done := rfl
@[simp] theorem apply_blockOut_err (b : Word) : ((Writes.blockOut b).apply s).err = s.err := rfl
@[simp] theorem apply_blockOut_errcode (b : Word) : ((Writes.blockOut b).apply s).errcode = s.errcode := rfl
@[simp] theorem apply_blockOut_wdrop (b : Word) : ((Writes.blockOut b).apply s).wdrop = s.wdrop := rfl
@[simp] theorem apply_blockOut_seed (b : Word) : ((Writes.blockOut b).apply s).seed = s.seed := rfl
@[simp] theorem apply_blockOut_blockIn (b : Word) : ((Writes.blockOut b).apply s).blockIn = s.blockIn := rfl
@[simp] theorem apply_blockOut_blockOut (b : Word) : ((Writes.blockOut b).apply s).blockOut = b := rfl
@[simp] theorem apply_blockOut_permIn (b : Word) : ((Writes.blockOut b).apply s).permIn = s.permIn := rfl
@[simp] theorem apply_blockOut_permOut (b : Word) : ((Writes.blockOut b).apply s).permOut = s.permOut := rfl
@[simp] theorem apply_blockOut_pools (b : Word) : ((Writes.blockOut b).apply s).pools = s.pools := rfl
@[simp] theorem apply_blockOut_inputs (b : Word) : ((Writes.blockOut b).apply s).inputs = s.inputs := rfl
@[simp] theorem apply_blockOut_reply (b : Word) : ((Writes.blockOut b).apply s).reply = s.reply := rfl

/-! The write of `PERM_OUT` (R32). -/

@[simp] theorem apply_permOut_params (q : Perm) : ((Writes.permOut q).apply s).params = s.params := rfl
@[simp] theorem apply_permOut_cmd (q : Perm) : ((Writes.permOut q).apply s).cmd = s.cmd := rfl
@[simp] theorem apply_permOut_busy (q : Perm) : ((Writes.permOut q).apply s).busy = s.busy := rfl
@[simp] theorem apply_permOut_done (q : Perm) : ((Writes.permOut q).apply s).done = s.done := rfl
@[simp] theorem apply_permOut_err (q : Perm) : ((Writes.permOut q).apply s).err = s.err := rfl
@[simp] theorem apply_permOut_errcode (q : Perm) : ((Writes.permOut q).apply s).errcode = s.errcode := rfl
@[simp] theorem apply_permOut_wdrop (q : Perm) : ((Writes.permOut q).apply s).wdrop = s.wdrop := rfl
@[simp] theorem apply_permOut_seed (q : Perm) : ((Writes.permOut q).apply s).seed = s.seed := rfl
@[simp] theorem apply_permOut_blockIn (q : Perm) : ((Writes.permOut q).apply s).blockIn = s.blockIn := rfl
@[simp] theorem apply_permOut_blockOut (q : Perm) : ((Writes.permOut q).apply s).blockOut = s.blockOut := rfl
@[simp] theorem apply_permOut_permIn (q : Perm) : ((Writes.permOut q).apply s).permIn = s.permIn := rfl
@[simp] theorem apply_permOut_permOut (q : Perm) : ((Writes.permOut q).apply s).permOut = packPerm q := rfl
@[simp] theorem apply_permOut_pools (q : Perm) : ((Writes.permOut q).apply s).pools = s.pools := rfl
@[simp] theorem apply_permOut_inputs (q : Perm) : ((Writes.permOut q).apply s).inputs = s.inputs := rfl
@[simp] theorem apply_permOut_reply (q : Perm) : ((Writes.permOut q).apply s).reply = s.reply := rfl

/-! Reset (R211). -/

@[simp] theorem resetBlock_params : (resetBlock s).params = s.params := rfl
@[simp] theorem resetBlock_cmd : (resetBlock s).cmd = 0 := rfl
@[simp] theorem resetBlock_busy : (resetBlock s).busy = false := rfl
@[simp] theorem resetBlock_done : (resetBlock s).done = false := rfl
@[simp] theorem resetBlock_err : (resetBlock s).err = false := rfl
@[simp] theorem resetBlock_errcode : (resetBlock s).errcode = 0 := rfl
@[simp] theorem resetBlock_wdrop : (resetBlock s).wdrop = false := rfl
@[simp] theorem resetBlock_seed : (resetBlock s).seed = 0 := rfl
@[simp] theorem resetBlock_blockIn : (resetBlock s).blockIn = 0 := rfl
@[simp] theorem resetBlock_blockOut : (resetBlock s).blockOut = 0 := rfl
@[simp] theorem resetBlock_permIn : (resetBlock s).permIn = Vector.replicate 8 0 := rfl
@[simp] theorem resetBlock_permOut : (resetBlock s).permOut = Vector.replicate 8 0 := rfl
@[simp] theorem resetBlock_pools : (resetBlock s).pools = none := rfl
@[simp] theorem resetBlock_inputs : (resetBlock s).inputs = s.inputs := rfl
@[simp] theorem resetBlock_reply : (resetBlock s).reply = none := rfl

/-! A command placed for the next step (log entry 6). -/

@[simp] theorem withFetchWord_params (nbits w : Nat) : (s.withFetchWord nbits w).params = s.params := rfl
@[simp] theorem withFetchWord_cmd (nbits w : Nat) : (s.withFetchWord nbits w).cmd = BitVec.ofNat 32 w := rfl
@[simp] theorem withFetchWord_busy (nbits w : Nat) : (s.withFetchWord nbits w).busy = true := rfl
@[simp] theorem withFetchWord_done (nbits w : Nat) : (s.withFetchWord nbits w).done = false := rfl
@[simp] theorem withFetchWord_err (nbits w : Nat) : (s.withFetchWord nbits w).err = false := rfl
@[simp] theorem withFetchWord_errcode (nbits w : Nat) : (s.withFetchWord nbits w).errcode = 0 := rfl
@[simp] theorem withFetchWord_wdrop (nbits w : Nat) : (s.withFetchWord nbits w).wdrop = false := rfl
@[simp] theorem withFetchWord_seed (nbits w : Nat) : (s.withFetchWord nbits w).seed = s.seed := rfl
@[simp] theorem withFetchWord_blockIn (nbits w : Nat) : (s.withFetchWord nbits w).blockIn = s.blockIn := rfl
@[simp] theorem withFetchWord_blockOut (nbits w : Nat) : (s.withFetchWord nbits w).blockOut = s.blockOut := rfl
@[simp] theorem withFetchWord_permIn (nbits w : Nat) : (s.withFetchWord nbits w).permIn = s.permIn := rfl
@[simp] theorem withFetchWord_permOut (nbits w : Nat) : (s.withFetchWord nbits w).permOut = s.permOut := rfl
@[simp] theorem withFetchWord_pools (nbits w : Nat) : (s.withFetchWord nbits w).pools = s.pools := rfl
@[simp] theorem withFetchWord_inputs (nbits w : Nat) : (s.withFetchWord nbits w).inputs = .turn :: s.inputs := rfl
@[simp] theorem withFetchWord_reply (nbits w : Nat) : (s.withFetchWord nbits w).reply = s.reply := rfl

end Sys2Proof.Machine
end

