-- ==== Sys2Proof/Laws/Ops.lean ====
section
/-! SUPPORT. What the shared operations can do, said once: completion, the checks, the bus, and one inversion lemma for `step`. -/

namespace Sys2Proof.Machine

variable {s t : State}

/-! Completion (R65). -/

@[simp] theorem complete_ok (s : State) (w : Writes) : complete s (.ok w) = .next (w.apply s).finishOk := rfl
@[simp] theorem complete_error (s : State) (e : ErrCode) : complete s (.error e) = .next (s.finishErr e) := rfl

theorem complete_answers (s : State) (r : Except ErrCode Writes) : ∃ t, complete s r = .next t := by
  cases r <;> exact ⟨_, rfl⟩

theorem complete_cases {r : Except ErrCode Writes} (h : complete s r = .next t) :
    (∃ w, r = .ok w ∧ t = (w.apply s).finishOk) ∨ (∃ e, r = .error e ∧ t = s.finishErr e) := by
  cases r with
  | ok w => exact .inl ⟨w, rfl, by simpa using h.symm⟩
  | error e => exact .inr ⟨e, rfl, by simpa using h.symm⟩

/-- `Exec` of R90 without its completion: what each command computes. -/
def runOf : Instr → State → Except ErrCode Writes
  | .build, s => runBuild s
  | .enc p q, s => runEnc p q s
  | .dec p q, s => runDec p q s
  | .invP, s => runInvP s
  | .invS, s => runInvS s
  | .rdp p, s => runRdp p s
  | .rds k, s => runRds k s
  | .papply, s => runPApply s
  | .sapply, s => runSApply s

theorem exec_eq_complete (i : Instr) (s : State) : exec i s = complete s (runOf i s) := by cases i <;> rfl

/-! The checks (R184). -/

theorem builtPools_none (h : s.pools = none) : builtPools s = .error .poolNotBuilt := by simp [builtPools, h]
theorem builtPools_some {p : Pools} (h : s.pools = some p) : builtPools s = .ok p := by simp [builtPools, h]

theorem checkIndex_lt {k : Nat} (h : k < s.params.n) : checkIndex s k = .ok () := by
  simp [checkIndex, Nat.not_le.2 h]

theorem checkIndex_ge {k : Nat} (h : s.params.n ≤ k) : checkIndex s k = .error .poolIndexOutOfRange := by
  simp [checkIndex, h]

theorem poolEntry_ok {L : Nat} {pool : List Perm} {k : Nat} (h : isBij L (pool.getD k []) = true) :
    poolEntry L pool k = .ok (pool.getD k []) := by
  simp only [poolEntry, h, if_true]

theorem poolKey_ok {pl : Pools} {p q : Nat} (hp : s.pools = some pl) (h1 : p < s.params.n) (h2 : q < s.params.n)
    (b1 : isBij 32 (pl.structural.getD p []) = true) (b2 : isBij 16 (pl.substitution.getD q []) = true) :
    poolKey s p q = .ok (pl.structural.getD p [], pl.substitution.getD q []) := by
  simp only [poolKey, builtPools_some hp, checkIndex_lt h1, checkIndex_lt h2, poolEntry_ok b1, poolEntry_ok b2,
    bind, Except.bind, pure, Except.pure]

theorem hostPerm_ok {L : Nat} (h : permInOk L s = true) : hostPerm L s = .ok (permIn L s) := by simp [hostPerm, h]

theorem hostPerm_bad {L : Nat} (h : permInOk L s = false) : hostPerm L s = .error .nonBijectivePermutation := by
  simp [hostPerm, h]

/-! Generation (R102, R105, R106): the stream is the block's own, started at `init(SEED)`. -/

theorem generate_xs32 {p : Params} (h : p.prng = .xs32) (seed : Word) :
    generate p seed = (genPools xs32 p seed).map Drawn.value := by simp [generate, h]

theorem generate_platform {p : Params} {k : Nat} (h : p.prng = .platform k) (seed : Word) :
    generate p seed = (genPools (platformPrng k) p seed).map Drawn.value := by simp [generate, h]

theorem runBuild_locked (h : s.pools ≠ none) : runBuild s = .error .poolLocked := by
  simp [runBuild, State.poolValid, Option.isSome_iff_ne_none, h]

theorem runBuild_some {p : Pools} (h : s.pools = none) (hg : generate s.params s.seed = some p) :
    runBuild s = .ok (.pools p) := by simp [runBuild, State.poolValid, h, hg]

theorem runBuild_none (h : s.pools = none) (hg : generate s.params s.seed = none) :
    runBuild s = .error .retryLimit := by simp [runBuild, State.poolValid, h, hg]

/-! The bus (R60 to R67). -/

/-- A write to a register does one of these things and nothing else. -/
theorem writeReg_cases (s : State) (r : Reg) (v : Word) :
    (r.writable = false ∧ writeReg s r v = s) ∨
    (r.writable = true ∧ s.busy = true ∧ writeReg s r v = s.dropWrite) ∨
    (s.busy = false ∧ r = .cmd ∧ writeReg s r v = s.accept v) ∨
    (s.busy = false ∧ r = .seed ∧ writeReg s r v = { s with seed := v }) ∨
    (s.busy = false ∧ r = .blockIn ∧ writeReg s r v = { s with blockIn := v }) ∨
    (s.busy = false ∧ ∃ k, r = .permIn k ∧ writeReg s r v = { s with permIn := s.permIn.set k v }) := by
  cases hb : s.busy <;> cases r <;> simp [writeReg, Reg.writable, hb]

theorem hostAccess_cases {a : Access} (h : hostAccess s a = .next t) :
    ∃ r, a.target s.params = .ok r ∧
      ((a.dir = .read ∧ t = { s with reply := some (.data (readReg s r)) }) ∨
       (∃ v, a.dir = .write v ∧ t = { writeReg s r v with reply := some .ack })) := by
  unfold hostAccess at h
  split at h
  · cases h
  · rename_i r hr
    refine ⟨r, hr, ?_⟩
    split at h <;> rename_i hd
    · exact .inl ⟨hd, by simpa using h.symm⟩
    · exact .inr ⟨_, hd, by simpa using h.symm⟩

/-! The step (R65, R69, R210). -/

/-- Every step does one of these things: a completion, an idle turn, one accepted access, or a reset.
`u` is `s` with the event that was first taken off. -/
theorem step_cases (h : step s = .next t) : ∃ u : State, u = { s with inputs := s.inputs.tail } ∧
    ((s.SequencerNext ∧ s.busy = true ∧ ∃ r, complete u r = .next t ∧
        ((∃ i, decode s.cmd = .ok i ∧ r = runOf i u) ∨ (∃ e, decode s.cmd = .error e ∧ r = .error .illegalCommand))) ∨
     (s.SequencerNext ∧ s.busy = false ∧ t = u) ∨
     (∃ a rest, s.inputs = .access a :: rest ∧ hostAccess u a = .next t) ∨
     (∃ rest, s.inputs = .reset :: rest ∧ t = resetBlock u)) := by
  have turn : ∀ u : State, u.cmd = s.cmd → u.busy = s.busy → s.SequencerNext → sequencerTurn u = .next t →
      (s.SequencerNext ∧ s.busy = true ∧ ∃ r, complete u r = .next t ∧
        ((∃ i, decode s.cmd = .ok i ∧ r = runOf i u) ∨ (∃ e, decode s.cmd = .error e ∧ r = .error .illegalCommand))) ∨
      (s.SequencerNext ∧ s.busy = false ∧ t = u) := by
    intro u hc hb hn ht
    unfold sequencerTurn completeCommand at ht
    rw [hb, hc] at ht
    cases hbusy : s.busy <;> simp only [hbusy, if_true, Bool.false_eq_true, if_false] at ht
    · exact .inr ⟨hn, rfl, by simpa using ht.symm⟩
    · refine .inl ⟨hn, rfl, ?_⟩
      split at ht
      · rename_i i hi
        exact ⟨_, (exec_eq_complete i u ▸ ht), .inl ⟨i, hi, rfl⟩⟩
      · rename_i e he
        exact ⟨_, ht, .inr ⟨e, he, rfl⟩⟩
  refine ⟨_, rfl, ?_⟩
  unfold step at h
  split at h <;> rename_i hin
  · have : ({ s with inputs := s.inputs.tail } : State) = s := by rw [hin]; cases s; simp_all
    rw [this]
    exact (turn s rfl rfl (.inl hin) h).imp_right .inl
  · rename_i rest
    rw [hin]
    exact (turn { s with inputs := rest } rfl rfl (.inr ⟨rest, hin⟩) h).imp_right .inl
  · rename_i a rest
    rw [hin]
    exact .inr (.inr (.inl ⟨a, rest, rfl, h⟩))
  · rename_i rest
    rw [hin]
    exact .inr (.inr (.inr ⟨rest, rfl, by simpa using h.symm⟩))

end Sys2Proof.Machine
end

