-- ==== Sys2Proof/Laws/Bus.lean ====
section
/-! SUPPORT. One word access to the window, as a step: which register it reaches and what it does there. -/

namespace Sys2Proof.Machine

theorem ofOffset_permIn (k : Fin 8) : Reg.ofOffset (0x20 + 4 * k.val) = some (.permIn k) := by
  revert k; decide

theorem ofOffset_permOut (k : Fin 8) : Reg.ofOffset (0x40 + 4 * k.val) = some (.permOut k) := by
  revert k; decide

/-- Which access reaches a register: one aligned word in the window, at a mapped offset (R60 to R62). -/
theorem target_ok_iff (a : Access) (p : Params) (r : Reg) : a.target p = .ok r ↔
    p.base ≤ a.addr ∧ a.addr < p.base + 0x100 ∧ a.size = 4 ∧ a.beats = 1 ∧ (a.addr - p.base) % 4 = 0 ∧
      Reg.ofOffset (a.addr - p.base) = some r := by
  by_cases hw : a.addr < p.base ∨ p.base + 0x100 ≤ a.addr
  · simp only [Access.target, hw, if_true, reduceCtorEq, false_iff]
    omega
  · by_cases hs : a.size ≠ 4 ∨ a.beats ≠ 1 ∨ (a.addr - p.base) % 4 ≠ 0
    · simp only [Access.target, hw, hs, if_true, if_false, reduceCtorEq, false_iff]
      omega
    · have hsides : p.base ≤ a.addr ∧ a.addr < p.base + 0x100 ∧ a.size = 4 ∧ a.beats = 1 ∧ (a.addr - p.base) % 4 = 0 := by
        omega
      simp only [Access.target, hw, if_false, hsides, true_and]
      cases Reg.ofOffset (a.addr - p.base) <;> simp

theorem target_memRead {p : Params} {off : Nat} {r : Reg} (h4 : off % 4 = 0) (hlt : off < 0x100)
    (h : Reg.ofOffset off = some r) : (memRead p off).target p = .ok r := by
  simp [target_ok_iff, memRead, h4, hlt, h]

theorem target_memWrite {p : Params} {off : Nat} {r : Reg} {v : Word} (h4 : off % 4 = 0) (hlt : off < 0x100)
    (h : Reg.ofOffset off = some r) : (memWrite p off v).target p = .ok r := by
  simp [target_ok_iff, memWrite, h4, hlt, h]

/-- A read step (R67). -/
theorem step_memRead {s : State} {rest : List Input} {off : Nat} {r : Reg} (h4 : off % 4 = 0) (hlt : off < 0x100)
    (h : Reg.ofOffset off = some r) :
    step { s with inputs := .access (memRead s.params off) :: rest } =
      .next { s with inputs := rest, reply := some (.data (readReg { s with inputs := rest } r)) } := by
  simp only [step, hostAccess, target_memRead h4 hlt h]
  rfl

/-- A write step (R63, R64, R66). -/
theorem step_memWrite {s : State} {rest : List Input} {off : Nat} {r : Reg} {v : Word} (h4 : off % 4 = 0) (hlt : off < 0x100)
    (h : Reg.ofOffset off = some r) :
    step { s with inputs := .access (memWrite s.params off v) :: rest } =
      .next { writeReg { s with inputs := rest } r v with reply := some .ack } := by
  simp only [step, hostAccess, target_memWrite h4 hlt h]
  rfl

end Sys2Proof.Machine
end

