-- ==== Sys2Proof/Laws/PerInstr.lean ====
section
/-! SUPPORT. Facts about every command as syntax, one lemma per constructor of `Instr`.
Family `RowMatch`: the encoder's word of a well-formed command selects the row of the opcode map (R83) with its mnemonic. -/

namespace Sys2Proof.Laws.RowMatch

/-- The word of `i` selects a row of R83 that has `i`'s mnemonic. -/
def Statement (i : Instr) : Prop :=
  i.wf = true → ∃ r ∈ opcodeMap, r.mnemonic = i.mnemonic ∧ r.selects (encode i) = true

/-- The fixed bits of format `C` (R81) under the masks of the rows that have an operand field. -/
theorem formatC_and (op : BitVec 4) (d : BitVec 1) (p s : Nat) :
    (formatC op d p s &&& 0xFF0000FF = formatC op d 0 0) ∧
    (formatC op d p 0 &&& 0xFFFF00FF = formatC op d 0 0) ∧
    (formatC op d 0 s &&& 0xFF00FFFF = formatC op d 0 0) := by
  have bit : ∀ (x y : Word), (∀ k, k < 32 → x.getLsbD k = y.getLsbD k) → x = y :=
    fun x y h => BitVec.eq_of_getLsbD_eq h
  refine ⟨bit _ _ ?_, bit _ _ ?_, bit _ _ ?_⟩ <;>
    (intro k hk
     simp only [BitVec.getLsbD_and, formatC, BitVec.getLsbD_cast, BitVec.getLsbD_append]
     interval_cases k <;> simp)

theorem build : Statement .build := fun _ => ⟨_, .head _, rfl, by decide⟩
theorem enc (p s : Nat) : Statement (.enc p s) := fun _ =>
  ⟨_, .tail _ (.head _), rfl, beq_iff_eq.2 (formatC_and 0x2 0 p s).1⟩
theorem dec (p s : Nat) : Statement (.dec p s) := fun _ =>
  ⟨_, .tail _ (.tail _ (.head _)), rfl, beq_iff_eq.2 (formatC_and 0x3 0 p s).1⟩
theorem invP : Statement .invP := fun _ => ⟨_, .tail _ (.tail _ (.tail _ (.head _))), rfl, by decide⟩
theorem invS : Statement .invS := fun _ => ⟨_, .tail _ (.tail _ (.tail _ (.tail _ (.head _)))), rfl, by decide⟩
theorem rdp (p : Nat) : Statement (.rdp p) := fun _ =>
  ⟨_, .tail _ (.tail _ (.tail _ (.tail _ (.tail _ (.head _))))), rfl, beq_iff_eq.2 (formatC_and 0x5 0 p 0).2.1⟩
theorem rds (s : Nat) : Statement (.rds s) := fun _ =>
  ⟨_, .tail _ (.tail _ (.tail _ (.tail _ (.tail _ (.tail _ (.head _)))))), rfl, beq_iff_eq.2 (formatC_and 0x5 1 0 s).2.2⟩
theorem papply : Statement .papply := fun _ =>
  ⟨_, .tail _ (.tail _ (.tail _ (.tail _ (.tail _ (.tail _ (.tail _ (.head _))))))), rfl, by decide⟩
theorem sapply : Statement .sapply := fun _ =>
  ⟨_, .tail _ (.tail _ (.tail _ (.tail _ (.tail _ (.tail _ (.tail _ (.tail _ (.head _)))))))), rfl, by decide⟩

end Sys2Proof.Laws.RowMatch
end

