-- ==== Sys2Proof/Laws/Permutations.lean ====
section
/-! SUPPORT. The spec lemma of each function on permutations and blocks: one swap, the swap loop, one attempt,
the inverse, and the two layers. -/

namespace Sys2Proof.Machine

/-! Generation (R103, R104). -/

/-- `f` maps 0..L-1 into itself, no value twice. -/
def MapsOneToOne (L : Nat) (f : Nat → Nat) : Prop :=
  (∀ i, i < L → f i < L) ∧ ∀ i j, i < L → j < L → f i = f j → i = j

theorem swapAt_keeps {L : Nat} {p : Nat → Nat} (h : MapsOneToOne L p) {a b : Nat} (ha : a < L) (hb : b < L) :
    MapsOneToOne L (swapAt p a b) := by
  obtain ⟨hlt, hinj⟩ := h
  refine ⟨fun i hi => ?_, fun i j hi hj he => ?_⟩
  · unfold swapAt
    split
    · exact hlt b hb
    · split
      · exact hlt a ha
      · exact hlt i hi
  · have hba := hinj b a hb ha
    have hab := hinj a b ha hb
    have hbj := hinj b j hb hj
    have haj := hinj a j ha hj
    have hib := hinj i b hi hb
    have hia := hinj i a hi ha
    have hij := hinj i j hi hj
    unfold swapAt at he
    by_cases h1 : i = a <;> by_cases h2 : j = a <;> by_cases h3 : i = b <;> by_cases h4 : j = b <;>
      simp [h1, h2, h3, h4] at he <;> grind

/-- The swap loop keeps a map of 0..L-1 into itself one to one (R109 (a), for one attempt). -/
theorem swapLoop_keeps {σ : Type} (g : Prng σ) {L : Nat} (hL : 0 < L) (n : Nat) (p : Nat → Nat) (rs : σ)
    (h : MapsOneToOne L p) : MapsOneToOne L (swapLoop g L n p rs).1 := by
  induction n generalizing p rs with
  | zero => exact h
  | succ n ih => exact ih _ _ (swapAt_keeps h (Nat.mod_lt _ hL) (Nat.mod_lt _ hL))

/-- One attempt gives a bijection of its domain, whatever the stream. -/
theorem attempt_isBij {σ : Type} (g : Prng σ) {L : Nat} (hL : 0 < L) (n : Nat) (rs : σ) :
    isBij L (attempt g L n rs).1 = true := by
  obtain ⟨hlt, hinj⟩ := swapLoop_keeps g hL n (fun i => i) rs ⟨fun _ h => h, fun _ _ _ _ h => h⟩
  refine (isBij_iff _ _).2 ⟨by simp [attempt], ?_, ?_⟩
  · intro v hv
    obtain ⟨i, hi, rfl⟩ := List.mem_map.1 hv
    exact hlt i (List.mem_range.1 hi)
  · exact List.Nodup.map_on (fun i hi j hj h => hinj i j (List.mem_range.1 hi) (List.mem_range.1 hj) h) List.nodup_range

/-- What `genPerm` answers: the first attempt, or a retry after an identity. -/
theorem genPerm_succ_cases {σ : Type} {g : Prng σ} {L n cap : Nat} {rs : σ} {d : Drawn σ Perm}
    (h : genPerm g L n (cap + 1) rs = some d) :
    ((attempt g L n rs).1 ≠ identity L ∧
      d = { value := (attempt g L n rs).1, attempts := 1, stream := (attempt g L n rs).2 }) ∨
    ((attempt g L n rs).1 = identity L ∧ ∃ d', genPerm g L n cap (attempt g L n rs).2 = some d' ∧
      d = { d' with attempts := d'.attempts + 1 }) := by
  unfold genPerm at h
  simp only at h
  split at h
  · rename_i hid
    split at h
    · cases h
    · rename_i d' hd'
      exact .inr ⟨hid, d', hd', by simpa using h.symm⟩
  · rename_i hid
    exact .inl ⟨hid, by simpa using h.symm⟩

/-! The inverse (R130). -/

theorem inverse_fold_length (p : Perm) (l : List Nat) (q : Perm) :
    (l.foldl (fun q i => q.set (permAt p i) i) q).length = q.length := by
  induction l generalizing q with
  | nil => rfl
  | cons a l ih => rw [List.foldl_cons, ih, List.length_set]

@[simp] theorem inverse_length (L : Nat) (p : Perm) : (inverse L p).length = L := by
  unfold inverse
  rw [inverse_fold_length, List.length_replicate]

theorem inverse_fold_at {L : Nat} {p : Perm} (h : isBij L p = true) (n : Nat) (hn : n ≤ L) {i : Nat} (hi : i < n) :
    permAt ((List.range n).foldl (fun q i => q.set (permAt p i) i) (List.replicate L 0)) (permAt p i) = i := by
  induction n with
  | zero => omega
  | succ n ih =>
    rw [List.range_succ, List.foldl_append, List.foldl_cons, List.foldl_nil]
    by_cases hin : i = n
    · subst hin
      have hlen := inverse_fold_length p (List.range i) (List.replicate L 0)
      rw [List.length_replicate] at hlen
      have hlt := permAt_lt h (show i < L by omega)
      generalize (List.range i).foldl (fun q i => q.set (permAt p i) i) (List.replicate L 0) = q at hlen
      generalize permAt p i = k at hlt
      simp [permAt, hlen, hlt]
    · have hne : permAt p n ≠ permAt p i := fun e => hin (permAt_injective h (by omega) (by omega) e).symm
      have := ih (by omega) (by omega)
      simp only [permAt, List.getD_eq_getElem?_getD] at this hne ⊢
      rw [List.getElem?_set_ne hne]
      exact this

/-- `q(p(i)) = i` for `q = inverse_L(p)` (R130). -/
theorem inverse_permAt {L : Nat} {p : Perm} (h : isBij L p = true) {i : Nat} (hi : i < L) :
    permAt (inverse L p) (permAt p i) = i := inverse_fold_at h L le_rfl hi

/-- `p(q(v)) = v` for `q = inverse_L(p)` (R130). -/
theorem permAt_inverse {L : Nat} {p : Perm} (h : isBij L p = true) {v : Nat} (hv : v < L) :
    permAt p (permAt (inverse L p) v) = v := by
  obtain ⟨i, hi, rfl⟩ := permAt_surjective h hv
  rw [inverse_permAt h hi]

/-! The layers (R140, R142). -/

/-- Output position `i` takes input position `p(i)`. -/
theorem pos_applyP (b : Word) (p : Perm) {i : Nat} (hi : i < 32) : pos (applyP b p) i = pos b (permAt p i) :=
  pos_fromPos _ hi

/-- Group `g` of the output is `s` of group `g` of the input. -/
theorem grp_subst (b : Word) (s : Perm) {g : Nat} (hg : g < 8) :
    grp (subst b s) g = BitVec.ofNat 4 (permAt s (grp b g).toNat) := grp_fromGrp _ hg

end Sys2Proof.Machine
end

