-- ==== Sys2Proof/Machine/HostProgram.lean ====
section
/-! DEFINITION. The host-program forms of R91 as events at the block. `POLL` is a loop of the host: how often it reads
`STATUS` before the command completes is open (R65), so its expansion takes that count as an argument. -/

namespace Sys2Proof.Machine

/-- `W off, v` (R91). -/
def hostW (p : Params) (off : Nat) (v : Word) : List Input := [.access (memWrite p off v)]

/-- `R off` (R91). -/
def hostR (p : Params) (off : Nat) : List Input := [.access (memRead p off)]

/-- `POLL` (R91) in a run where the completion falls after `k` reads that still see `BUSY = 1`. -/
def hostPoll (p : Params) (k : Nat) : List Input :=
  (List.replicate k (hostR p 0x04)).flatten ++ [.turn] ++ hostR p 0x04

/-- `RUN cmd` (R91). -/
def hostRun (p : Params) (k : Nat) (i : Instr) : List Input :=
  hostW p 0x00 (encode i) ++ hostPoll p k

/-- `LOADP a0..a7` (R91): word `j` goes to offset `0x20 + 4j`. -/
def hostLoadP (p : Params) (a : Vector Word 8) : List Input :=
  ((List.finRange 8).map fun (j : Fin 8) => hostW p (0x20 + 4 * j.val) a[j]).flatten

/-- `ENCRYPT_BLOCK b, p, s` (R91). -/
def hostEncryptBlock (q : Params) (k : Nat) (b : Word) (p s : Nat) : List Input :=
  hostW q 0x0C b ++ hostRun q k (.enc p s) ++ hostR q 0x04 ++ hostR q 0x10

/-- `DECRYPT_BLOCK c, p, s` (R91). -/
def hostDecryptBlock (q : Params) (k : Nat) (c : Word) (p s : Nat) : List Input :=
  hostW q 0x0C c ++ hostRun q k (.dec p s) ++ hostR q 0x04 ++ hostR q 0x10

/-- `BUILD_POOLS seed` (R91). -/
def hostBuildPools (q : Params) (k : Nat) (seed : Word) : List Input :=
  hostW q 0x08 seed ++ hostRun q k .build ++ hostR q 0x04

end Sys2Proof.Machine
end

