-- ==== Sys2Proof/Tests/Slice0.lean ====
section
/-! SUPPORT. Tests: the well-formedness smoke tests, one word per command written out from the encoding, one step per
command against the spec's vectors (95_test_vectors.md), and a witness for every statement that has hypotheses.
Every expected value comes from the spec's tables or its worked examples. -/

namespace Sys2Proof.Tests

open Sys2Proof Sys2Proof.Machine

/-! ## Well-formedness: an ill-formed term for each check -/

theorem test_wf_refuses_enc_pidx : (Instr.enc 256 0).wf = false := by decide
theorem test_wf_refuses_enc_sidx : (Instr.enc 0 256).wf = false := by decide
theorem test_wf_refuses_dec_pidx : (Instr.dec 256 0).wf = false := by decide
theorem test_wf_refuses_dec_sidx : (Instr.dec 0 300).wf = false := by decide
theorem test_wf_refuses_rdp : (Instr.rdp 256).wf = false := by decide
theorem test_wf_refuses_rds : (Instr.rds 256).wf = false := by decide
theorem test_wf_refuses_n_zero : { Params.default with n := 0 }.wf = false := by decide
theorem test_wf_refuses_n_257 : { Params.default with n := 257 }.wf = false := by decide
theorem test_wf_refuses_swaps_zero : { Params.default with swapCount := 0 }.wf = false := by decide
theorem test_wf_refuses_swaps_256 : { Params.default with swapCount := 256 }.wf = false := by decide
theorem test_wf_refuses_attempts_zero : { Params.default with maxAttempts := 0 }.wf = false := by decide
theorem test_wf_refuses_attempts_65537 : { Params.default with maxAttempts := 65537 }.wf = false := by decide

/-! ## Decoding: one word per command, bits as R81 writes them: `RRRRRRRR ssssssss pppppppp RRR d oooo` -/

theorem test_decode_build : decode 0b00000000_00000000_00000000_000_0_0001 = .ok .build := by decide
theorem test_decode_enc : decode 0b00000000_00000010_00010100_000_0_0010 = .ok (.enc 20 2) := by decide
theorem test_decode_dec : decode 0b00000000_00000010_00010100_000_0_0011 = .ok (.dec 20 2) := by decide
theorem test_decode_invP : decode 0b00000000_00000000_00000000_000_0_0100 = .ok .invP := by decide
theorem test_decode_invS : decode 0b00000000_00000000_00000000_000_1_0100 = .ok .invS := by decide
theorem test_decode_rdp : decode 0b00000000_00000000_00010100_000_0_0101 = .ok (.rdp 20) := by decide
theorem test_decode_rds : decode 0b00000000_00000010_00000000_000_1_0101 = .ok (.rds 2) := by decide
theorem test_decode_papply : decode 0b00000000_00000000_00000000_000_0_0110 = .ok .papply := by decide
theorem test_decode_sapply : decode 0b00000000_00000000_00000000_000_0_0111 = .ok .sapply := by decide

/-- The illegal words of vectors 2.5, each refused by its own name. -/
theorem test_decode_illegal :
    decode 0x00000000 = .error .reservedOp ∧ decode 0x00000008 = .error .reservedOp ∧
    decode 0x0000000F = .error .reservedOp ∧ decode 0x00000101 = .error .unusedField ∧
    decode 0x01021402 = .error .reservedField1 ∧ decode 0x00021422 = .error .reservedField0 ∧
    decode 0x00000012 = .error .noSubstitutionForm ∧ decode 0x00000020 = .error .reservedField0 ∧
    decode 0x00011405 = .error .unusedField ∧ decode 0x00010016 = .error .noSubstitutionForm := by decide

theorem test_decodeTableWord : decodeTableWord 32 0x00FFFF02 = some (.enc 255 255) := by decide
theorem test_decodeTableWord_too_wide : decodeTableWord 32 0x100000001 = none := by decide
theorem test_asm_text : (Instr.enc 20 2).asmText = "ENC 20, 2" ∧ Instr.invP.asmText = "INV.P" := by decide

/-! ## Small states -/

/-- The state an outcome holds. -/
def stateOf (o : Host.Outcome State Fault Refusal) : Option State :=
  match o with
  | .next s => some s
  | .fault _ => none
  | .refused _ => none

/-- The fault an outcome is. -/
def faultOf (o : Host.Outcome State Fault Refusal) : Option Fault :=
  match o with
  | .fault f => some f
  | .next _ => none
  | .refused _ => none

def statusAfter (o : Host.Outcome State Fault Refusal) : Option Word := (stateOf o).map State.statusWord
def blockAfter (o : Host.Outcome State Fault Refusal) : Option Word := (stateOf o).map (·.blockOut)
def permAfter (o : Host.Outcome State Fault Refusal) : Option (Vector Word 8) := (stateOf o).map (·.permOut)
def poolsAfter (o : Host.Outcome State Fault Refusal) : Option Pools := (stateOf o).bind (·.pools)
def replyAfter (o : Host.Outcome State Fault Refusal) : Option Reply := (stateOf o).bind (·.reply)

/-- `N = 1`, `SWAP_COUNT = 1` (V-G3 to V-G5, V-N6). -/
def smallParams : Params := { Params.default with n := 1, swapCount := 1 }

/-- The pools of V-G3: `swap(5,15)` of domain 32 and `swap(1,0)` of domain 16. -/
def smallPools : Pools :=
  { structural := [[0, 1, 2, 3, 4, 15, 6, 7, 8, 9, 10, 11, 12, 13, 14, 5, 16, 17, 18, 19, 20, 21, 22, 23, 24, 25, 26, 27, 28,
      29, 30, 31]]
    substitution := [[1, 0, 2, 3, 4, 5, 6, 7, 8, 9, 10, 11, 12, 13, 14, 15]] }

/-- Idle, with parameters of V-G3 and `SEED = 1`; no pools yet. -/
def fresh : State := { State.resetWith smallParams [] with seed := 1 }

/-- `fresh` with the pools of V-G3 and a block. -/
def built : State := { fresh with pools := some smallPools, blockIn := 0x677165B9 }

/-- The rotation of V-I1, packed. -/
def rotation : Vector Word 8 :=
  #v[0x04030201, 0x08070605, 0x0C0B0A09, 0x100F0E0D, 0x14131211, 0x18171615, 0x1C1B1A19, 0x001F1E1D]

/-- Reset, with the rotation in `PERM_IN` and a block. -/
def rotated : State := { State.reset with permIn := rotation, blockIn := 0x677165B9 }

/-- Reset, with the increment of V-I3 in `PERM_IN0..3`, other words in `PERM_IN4..7`, and a block. -/
def incremented : State :=
  { State.reset with
    permIn := #v[0x04030201, 0x08070605, 0x0C0B0A09, 0x000F0E0D, 0xDEADBEEF, 0xDEADBEEF, 0xDEADBEEF, 0xDEADBEEF],
    blockIn := 0x01234567 }

/-- A running `INV.P` on all-zero `PERM_IN`. -/
def running : State := State.reset.accept 0x00000004

/-! ## The generator -/

/-- V-G1: `PPOOL[0]` of seed 42 at the defaults. -/
theorem test_attempt_seed_42 : (attempt xs32 32 64 (xs32.init 42)).1 =
    [18, 22, 10, 21, 16, 11, 26, 28, 0, 8, 31, 7, 3, 29, 4, 25, 6, 24, 9, 30, 19, 17, 23, 12, 20, 5, 27, 14, 15, 2, 1, 13] := by
  decide +kernel

/-- V-G3: the first attempt is the identity and is rejected. -/
theorem test_build_small : poolsAfter (exec .build fresh) = some smallPools ∧ statusAfter (exec .build fresh) = some 0x0000000A := by
  decide +kernel

/-- V-G5: with one attempt allowed, `BUILD` reaches its cap. -/
theorem test_build_retry_limit :
    statusAfter (exec .build { fresh with params := { smallParams with maxAttempts := 1 } }) = some 0x00000706 := by
  decide +kernel

/-- V-G6: the substitution entries continue the stream. -/
theorem test_pools_share_stream :
    (generate { Params.default with n := 2, swapCount := 2 } 1).map (·.substitution) =
      some [[0, 1, 2, 3, 5, 4, 6, 11, 8, 9, 10, 7, 12, 13, 14, 15], [0, 5, 2, 3, 4, 1, 6, 7, 8, 9, 14, 11, 12, 13, 10, 15]] := by
  decide +kernel

/-- P6: `RDP 0` after V-G3. -/
theorem test_rdp : permAfter (exec (.rdp 0) built) = some
    #v[0x03020100, 0x07060F04, 0x0B0A0908, 0x050E0D0C, 0x13121110, 0x17161514, 0x1B1A1918, 0x1F1E1D1C] := by decide +kernel

/-- V-G7: `N = 1`, so only index 0 is legal. -/
theorem test_rdp_index : statusAfter (exec (.rdp 1) built) = some 0x0000020E := by decide +kernel

/-- P6: `RDS 0` after V-G3. -/
theorem test_rds : permAfter (exec (.rds 0) built) = some
    #v[0x03020001, 0x07060504, 0x0B0A0908, 0x0F0E0D0C, 0, 0, 0, 0] := by decide +kernel

/-- V-G7: pool state is checked before the index. -/
theorem test_rds_not_built : statusAfter (exec (.rds 255) fresh) = some 0x00000506 := by decide +kernel

/-! ## The inverter -/

/-- V-I1. -/
theorem test_invP : permAfter (exec .invP rotated) = some
    #v[0x0201001F, 0x06050403, 0x0A090807, 0x0E0D0C0B, 0x1211100F, 0x16151413, 0x1A191817, 0x1E1D1C1B] := by decide +kernel

/-- V-I5: entry 31 is 63, whose low five bits would complete a bijection. -/
theorem test_invP_full_byte : statusAfter (exec .invP { State.reset with
    permIn := #v[0x03020100, 0x07060504, 0x0B0A0908, 0x0F0E0D0C, 0x13121110, 0x17161514, 0x1B1A1918, 0x3F1E1D1C] }) =
    some 0x00000306 := by decide +kernel

/-- V-I3. -/
theorem test_invS : permAfter (exec .invS incremented) = some
    #v[0x0201000F, 0x06050403, 0x0A090807, 0x0E0D0C0B, 0, 0, 0, 0] := by decide +kernel

/-- V-I5. -/
theorem test_invS_zero : statusAfter (exec .invS State.reset) = some 0x00000306 := by decide +kernel

/-! ## The network core -/

/-- V-N1, with `PPOOL[20]` and `SPOOL[2]` of V-G1: the whole pipeline. -/
theorem test_encrypt_scenario : encrypt 0x677165B9
    [10, 1, 2, 28, 25, 8, 22, 30, 20, 0, 17, 7, 6, 29, 4, 21, 14, 3, 26, 18, 27, 5, 31, 16, 11, 9, 15, 23, 13, 19, 12, 24]
    [12, 3, 1, 2, 0, 4, 11, 6, 15, 13, 8, 14, 10, 7, 5, 9] = 0x81435E3B := by decide +kernel

/-- V-N6. -/
theorem test_enc : blockAfter (exec (.enc 0 0) built) = some 0x637165B9 := by decide +kernel

/-- V-N6. -/
theorem test_dec : blockAfter (exec (.dec 0 0) { built with blockIn := 0x637165B9 }) = some 0x677165B9 := by decide +kernel

/-- V-N7: an index of 1 is out of range at `N = 1`, and nothing is built at reset. -/
theorem test_dec_errors : statusAfter (exec (.dec 0 1) built) = some 0x0000020E ∧
    statusAfter (exec (.dec 20 2) State.reset) = some 0x00000506 := by decide +kernel

/-- V-N3. -/
theorem test_papply : blockAfter (exec .papply rotated) = some 0xCEE2CB72 := by decide +kernel

/-- V-N7. -/
theorem test_papply_zero : statusAfter (exec .papply State.reset) = some 0x00000306 := by decide +kernel

/-- V-N4: each group is read most significant bit first. -/
theorem test_sapply : blockAfter (exec .sapply incremented) = some 0x12345678 := by decide +kernel

/-- V-N4: no carry between groups. -/
theorem test_sapply_wraps : blockAfter (exec .sapply { incremented with blockIn := 0xFFFFFFFF }) = some 0 := by decide +kernel

/-! ## Steps and the bus (vectors 2.5 and 2.6) -/

theorem test_step_runs_placed_word :
    step (State.reset.withFetchWord 32 0x00000006) = exec .papply (State.reset.accept 0x00000006) := rfl

theorem test_step_illegal_word : statusAfter (step (State.reset.withFetchWord 32 0x00000101)) = some 0x00000406 := by decide +kernel

theorem test_step_idle : step State.reset = .next State.reset := rfl

theorem test_read_info : replyAfter (step (Spec.reading State.reset 0x14 [])) = some (.data 0x401F1020) := by decide +kernel

/-- V-G3: `INFO` at `N = 1`, `SWAP_COUNT = 1`. -/
theorem test_read_info_small : replyAfter (step (Spec.reading fresh 0x14 [])) = some (.data 0x01001020) := by decide +kernel

theorem test_read_misaligned : faultOf (step (Spec.reading State.reset 0x02 [])) = some .busErrorShape := by decide +kernel
theorem test_read_reserved : faultOf (step (Spec.reading State.reset 0xFC [])) = some .busErrorReserved := by decide +kernel
theorem test_write_reserved : faultOf (step (Spec.writing State.reset 0x18 0 [])) = some .busErrorReserved := by decide +kernel
theorem test_read_outside : faultOf (step (Spec.reading State.reset 0x100 [])) = some .outsideWindow := by decide +kernel

/-- P5, second row: a write while `BUSY = 1` is dropped and sets `WDROP`. -/
theorem test_write_while_busy : (stateOf (step (Spec.writing running 0x0C 0x1234 []))).map (fun t => (t.blockIn, t.statusWord)) =
    some (0, 0x11) := by decide +kernel

/-- R91: `LOADP` writes eight words, the last at offset 0x3C. -/
theorem test_loadP_expansion : (hostLoadP Params.default rotation).length = 8 ∧
    (hostLoadP Params.default rotation)[7]? = some (.access (memWrite Params.default 0x3C 0x001F1E1D)) := by decide +kernel

/-- R91: `RUN BUILD` in a run where one poll still sees `BUSY = 1`. -/
theorem test_run_expansion : hostRun Params.default 1 .build =
    [.access (memWrite Params.default 0x00 1), .access (memRead Params.default 0x04), .turn,
     .access (memRead Params.default 0x04)] := by decide +kernel

/-! ## Witnesses: the hypotheses of each statement can be met together -/

theorem witness_DecodeOfEncodeIsIdentity : (Instr.enc 255 255).wf = true ∧ (Instr.rds 255).wf = true := by decide

theorem witness_EncodeOfDecodeIsIdentity : decode 0x00FFFF02 = .ok (.enc 255 255) := by decide

theorem witness_DecodeAgreesWithOpcodeMap :
    decode 0x00FFFF03 = .ok (.dec 255 255) ∧ decode 0x0000FF05 = .ok (.rdp 255) ∧ decode 0x00FF0015 = .ok (.rds 255) ∧
    (∀ r ∈ opcodeMap, (0x00000012 : Word) &&& r.mask ≠ r.matchWord) := by decide

/-- One illegal word for each point of R85. -/
theorem witness_illegal_points : Spec.illegal 0x00000021 ∧ Spec.illegal 0x01000001 ∧ Spec.illegal 0x00000008 ∧
    Spec.illegal 0x00000012 ∧ Spec.illegal 0x00000101 ∧ Spec.illegal 0x00011405 ∧ Spec.illegal 0x00020115 := by
  simp [Spec.illegal]

theorem witness_IllegalWordsFailWithCode4 :
    State.reset.busy = false ∧ (State.reset.accept 0x00000101).busy = true ∧
    Spec.illegal (State.reset.accept 0x00000101).cmd := by
  refine ⟨rfl, rfl, ?_⟩
  simp [Spec.illegal, State.accept]

theorem witness_StepRunsDecodedCommand : running.busy = true ∧ decode running.cmd = .ok .invP ∧ State.reset.busy = false := by
  decide

theorem witness_BusyTurnCompletes : running.busy = true ∧ running.SequencerNext ∧
    ({ running with inputs := [.turn] } : State).SequencerNext :=
  ⟨rfl, .inl rfl, .inr ⟨[], rfl⟩⟩

/-- Both branches of the statements about writes: a busy and an idle block. -/
theorem witness_writes : running.busy = true ∧ State.reset.busy = false := by decide

/-- The ends of the ranges of offsets in `OperandWrites`, `ReadOnlyWritesIgnored` and `ReadAfterOperandWrite`. -/
theorem witness_offset_ranges :
    (0x20 ≤ 0x3C ∧ 0x3C ≤ 0x3C ∧ 0x3C % 4 = 0) ∧ (0x40 ≤ 0x5C ∧ 0x5C ≤ 0x5C ∧ 0x5C % 4 = 0) := by decide

/-- An access of each kind in `BusErrorsExactly`, at the ends of the ranges: misaligned 0xFE, a halfword, a burst, reserved 0xFC
and 0x1C, mapped 0x14 and 0x5C. -/
theorem witness_BusErrorsExactly :
    faultOf (step (Spec.reading State.reset 0xFE [])) = some .busErrorShape ∧
    faultOf (step { State.reset with inputs := [.access { memRead Params.default 0 with size := 2 }] }) = some .busErrorShape ∧
    faultOf (step { State.reset with inputs := [.access { memRead Params.default 0 with beats := 2 }] }) = some .busErrorShape ∧
    faultOf (step (Spec.reading State.reset 0x1C [])) = some .busErrorReserved ∧
    faultOf (step (Spec.reading State.reset 0x60 [])) = some .busErrorReserved ∧
    (stateOf (step (Spec.reading State.reset 0x5C []))).isSome = true := by decide +kernel

theorem witness_InfoLayout : Params.default.wf = true ∧ { Params.default with n := 256, swapCount := 255 }.wf = true ∧
    step State.reset = .next State.reset := ⟨by decide, by decide, rfl⟩

theorem witness_RegisterMapRoundTrip : 0x5C % 4 = 0 ∧ Reg.ofOffset 0x5C = some (.permOut 7) := by decide

/-- A step that keeps built pools, a reset that clears them, and a `BUILD` that makes them. -/
theorem witness_PoolsLockedUntilReset :
    step built = .next built ∧ built.pools = some smallPools ∧ built.inputs = [] ∧
    poolsAfter (step { built with inputs := [.reset] }) = none ∧
    fresh.pools = none ∧ poolsAfter (step (fresh.withFetchWord 32 1)) = some smallPools := by
  refine ⟨rfl, rfl, rfl, rfl, rfl, ?_⟩
  decide +kernel

theorem witness_OperandsStableWhileBusy : ∃ t, step (Spec.writing running 0x08 5 []) = .next t ∧
    (Spec.writing running 0x08 5 []).busy = true ∧ t.busy = true := ⟨_, rfl, rfl, rfl⟩

/-- An idle turn, and an accepted `CMD` write. -/
theorem witness_ResultsChangeOnlyAtCompletion :
    step State.reset = .next State.reset ∧ ¬(State.reset.busy = true ∧ State.reset.SequencerNext) ∧
    (∀ rest, State.reset.inputs ≠ .reset :: rest) ∧
    ∃ t, step (Spec.writing State.reset 0x00 1 []) = .next t ∧ t.busy = true :=
  ⟨rfl, by simp [State.reset, State.resetWith], by simp [State.reset, State.resetWith], _, rfl, rfl⟩

/-- `WDROP` set by a dropped write, and cleared by an accepted one. -/
theorem witness_DroppedWriteFlag :
    (∃ t, step (Spec.writing running 0x20 5 []) = .next t ∧ running.wdrop = false ∧ t.wdrop = true) ∧
    (∃ t, step (Spec.writing { State.reset with wdrop := true } 0x00 1 []) = .next t ∧ t.wdrop = false) :=
  ⟨⟨_, rfl, rfl, rfl⟩, ⟨_, rfl, rfl⟩⟩

theorem fresh_inv : fresh.Inv where
  params_wf := by decide
  err_done := by decide
  err_errcode := by decide
  errcode_known := by decide
  busy_clear := by decide
  pools_wf := fun p h => by cases h
  permOut_small := by decide +kernel

theorem built_inv : built.Inv where
  params_wf := by decide
  err_done := by decide
  err_errcode := by decide
  errcode_known := by decide
  busy_clear := by decide
  pools_wf := fun p h => by
    obtain rfl : smallPools = p := Option.some.inj h
    decide +kernel
  permOut_small := by decide +kernel

theorem witness_StepKeepsInvariant : built.Inv ∧ step built = .next built := ⟨built_inv, rfl⟩

theorem witness_ResetHasInvariant : smallParams.wf = true := by decide

/-- A busy block with an access, a turn and a reset to come, none of which gets a bus error. -/
theorem witness_AcceptedCommandCompletes :
    let s : State := { running with inputs := [.access (memRead Params.default 0x04), .turn, .reset] }
    s.busy = true ∧ s.NoBusError := by
  refine ⟨rfl, ?_⟩
  intro x hx
  revert x
  simp only [List.forall_mem_cons, List.not_mem_nil, false_imp_iff, implies_true, and_true]
  decide

/-- Generation succeeds (V-G3, after a rejected attempt) and fails (V-G5). -/
theorem witness_generation :
    (genPerm xs32 32 1 16 (xs32.init 1)).map (·.attempts) = some 2 ∧
    (genPools xs32 smallParams 1).map (·.attempts) = some 3 ∧
    (genPools xs32 { smallParams with maxAttempts := 1 } 1).isSome = false := by decide +kernel

/-- The three cases of `BUILD` with the default stream (V-G3, V-G5, V-G7). -/
theorem witness_BuildCommand : built.pools ≠ none ∧ fresh.pools = none ∧ fresh.params.prng = .xs32 ∧
    (genPools xs32 fresh.params fresh.seed).map (·.value) = some smallPools ∧
    genPools xs32 { smallParams with maxAttempts := 1 } fresh.seed = none ∧
    generate fresh.params fresh.seed = some smallPools ∧
    generate { smallParams with maxAttempts := 1 } fresh.seed = none := by decide +kernel

/-- The two cases of `BUILD` with a platform's stream. Its values are free, so the parameters here are outside R5, where the outcome
does not depend on them: no entries succeed, and no attempts fail. -/
theorem witness_BuildCommand_platform :
    let none_asked : State := { fresh with params := { smallParams with n := 0, prng := .platform 7 } }
    let none_allowed : State := { fresh with params := { smallParams with maxAttempts := 0, prng := .platform 7 } }
    none_asked.pools = none ∧ none_asked.params.prng = .platform 7 ∧
    (∃ d, genPools (platformPrng 7) none_asked.params none_asked.seed = some d) ∧
    none_allowed.pools = none ∧ none_allowed.params.prng = .platform 7 ∧
    genPools (platformPrng 7) none_allowed.params none_allowed.seed = none :=
  ⟨rfl, rfl, ⟨_, rfl⟩, rfl, rfl, rfl⟩

/-- Two blocks that differ in everything else build from the same seed and parameters. -/
theorem witness_BuildDependsOnlyOnSeedAndParameters :
    let s' : State := { fresh with blockIn := 7, cmd := 9, wdrop := true, permIn := rotation }
    fresh.pools = none ∧ s'.pools = none ∧ fresh.seed = s'.seed ∧ fresh.params = s'.params ∧
    (∃ t, exec .build fresh = .next t) ∧ (∃ t', exec .build s' = .next t') := by
  have answers : ∀ s : State, ∃ t, exec .build s = .next t := fun s => by
    show ∃ t, complete s (runBuild s) = .next t
    cases runBuild s <;> exact ⟨_, rfl⟩
  exact ⟨rfl, rfl, rfl, rfl, answers _, answers _⟩

/-- The cases of `ENC`, `DEC`, `RDP` and `RDS`: not built, index out of range at its first value `N`, and the last legal index. -/
theorem witness_pool_commands :
    fresh.pools = none ∧ built.pools ≠ none ∧ built.params.n ≤ 1 ∧ built.Inv ∧ built.pools = some smallPools ∧
    0 < built.params.n := ⟨rfl, by decide, by decide, built_inv, rfl, by decide⟩

/-- The two cases of the commands on `PERM_IN`, for both domains. -/
theorem witness_host_permutations :
    Spec.hostPermOk 32 rotated ∧ Spec.hostPermOk 16 incremented ∧ ¬ Spec.hostPermOk 32 State.reset ∧
    ¬ Spec.hostPermOk 16 State.reset := by
  have h32 : ∀ e, e < 32 → ∀ e', e' < 32 → e ≠ e' → Spec.hostEntry rotated e ≠ Spec.hostEntry rotated e' := by decide +kernel
  have h16 : ∀ e, e < 16 → ∀ e', e' < 16 → e ≠ e' → Spec.hostEntry incremented e ≠ Spec.hostEntry incremented e' := by decide +kernel
  refine ⟨⟨by decide +kernel, fun e e' h h' => h32 e h e' h'⟩, ⟨by decide +kernel, fun e e' h h' => h16 e h e' h'⟩, ?_, ?_⟩ <;>
    exact fun h => h.2 0 1 (by decide) (by decide) (by decide) (by decide +kernel)

/-- The hypotheses of `PermInCheckIsBijectivity`: the identity of domain 16, and a state with the same first four words. -/
theorem witness_PermInCheckIsBijectivity :
    let s : State := { State.reset with permIn := #v[0x03020100, 0x07060504, 0x0B0A0908, 0x0F0E0D0C, 0, 0, 0, 0] }
    let s' : State := { State.reset with permIn := #v[0x03020100, 0x07060504, 0x0B0A0908, 0x0F0E0D0C, 1, 2, 3, 4] }
    permIn 16 s = List.range 16 ∧ ∀ k, k < 4 → s'.permIn[k]? = s.permIn[k]? := by decide +kernel

/-- Bijections of both domains, for `InverseLaws`, `PermutationLayerCornerCases` and `EncryptDecryptRoundTrip`; the identity meets the
last premise of R135 (d). -/
theorem witness_bijections : isBij 32 (smallPools.structural.getD 0 []) = true ∧ isBij 16 (smallPools.substitution.getD 0 []) = true ∧
    inverse 32 (List.range 32) = List.range 32 := by decide +kernel

theorem witness_EncThenDecRestoresBlock : built.Inv ∧ built.pools ≠ none ∧ 0 < built.params.n :=
  ⟨built_inv, by decide, by decide⟩

/-- Two states that differ in earlier results but hold the same block and key. -/
theorem witness_CipherDependsOnlyOnBlockAndKey :
    let s' : State := { built with blockOut := 3, permOut := rotation, cmd := 5 }
    built.pools = some smallPools ∧ s'.pools = some smallPools ∧ built.blockIn = s'.blockIn ∧
    (stateOf (exec (.enc 0 0) built)).map (·.err) = some false ∧ (stateOf (exec (.enc 0 0) s')).map (·.err) = some false ∧
    (stateOf (exec (.dec 0 0) built)).map (·.err) = some false ∧ (stateOf (exec (.dec 0 0) s')).map (·.err) = some false := by
  decide +kernel

/-- A failing command, for `FailedCommandWritesNothing` and `ErrorsAreDeterministic`. -/
theorem witness_failed_command : (stateOf (exec .papply State.reset)).map (·.err) = some true := by decide +kernel

/-- A succeeding command of each frame, for `SuccessfulCommandFrame`. -/
theorem witness_SuccessfulCommandFrame :
    (stateOf (exec .build fresh)).map (·.err) = some false ∧ (stateOf (exec .sapply incremented)).map (·.err) = some false ∧
    (stateOf (exec .invS incremented)).map (·.err) = some false := by decide +kernel

theorem witness_ErrorCodesPerCommand : fresh.Inv ∧ built.Inv := ⟨fresh_inv, built_inv⟩

end Sys2Proof.Tests
end

section
/-! PROOFS. The functions that make a permutation or a pool, seen from their answer: what the answer holds, whatever the
stream and the state (R104 to R109, R131, R133, R134). -/

namespace Sys2Proof.Machine

/-! Permutations in `PERM_OUT` (R32). -/

theorem permAt_eq_zero {q : Perm} {e : Nat} (h : q.length ≤ e) : permAt q e = 0 := List.getD_eq_default q 0 h

/-- Entries past the domain read 0, so a bound inside the domain is a bound everywhere. -/
theorem permAt_lt_32 {L : Nat} {q : Perm} (hL : L ≤ 32) (hlen : q.length = L) (hq : ∀ e, e < L → permAt q e < L) (e : Nat) :
    permAt q e < 32 := by
  by_cases he : e < L
  · exact (hq e he).trans_le hL
  · rw [permAt_eq_zero (by omega)]
    decide

theorem isBij_permAt_lt_32 {L : Nat} {q : Perm} (hL : L ≤ 32) (h : isBij L q = true) (e : Nat) : permAt q e < 32 :=
  permAt_lt_32 hL ((isBij_iff L q).1 h).1 (fun _ he => permAt_lt h he) e

/-- An inverse has its values in the domain (R130). -/
theorem permAt_inverse_lt {L : Nat} {p : Perm} (h : isBij L p = true) {v : Nat} (hv : v < L) : permAt (inverse L p) v < L := by
  obtain ⟨i, hi, rfl⟩ := permAt_surjective h hv
  rwa [inverse_permAt h hi]

theorem inverse_permAt_lt_32 {L : Nat} {p : Perm} (hL : L ≤ 32) (h : isBij L p = true) (e : Nat) :
    permAt (inverse L p) e < 32 :=
  permAt_lt_32 hL (inverse_length L p) (fun _ hv => permAt_inverse_lt h hv) e

/-- The check of R131 says that the permutation it lets through (R132) is a bijection. -/
theorem isBij_permIn {L : Nat} {s : State} (h : permInOk L s = true) : isBij L (permIn L s) = true := by
  obtain ⟨hlt, hne⟩ := (permInOk_iff L s).1 h
  refine (isBij_iff _ _).2 ⟨by simp [permIn], ?_, ?_⟩
  · intro v hv
    obtain ⟨e, he, rfl⟩ := List.mem_map.1 hv
    exact hlt e (List.mem_range.1 he)
  · refine List.Nodup.map_on (fun e he e' he' heq => ?_) List.nodup_range
    by_contra hee
    exact hne e e' (List.mem_range.1 he) (List.mem_range.1 he') hee heq

/-! Generation (R104, R105, R109 (a) and (b)). -/

variable {σ : Type} {g : Prng σ} {L n cap k : Nat} {rs : σ}

theorem genPerm_sound (hL : 0 < L) {d : Drawn σ Perm} (h : genPerm g L n cap rs = some d) :
    isBij L d.value = true ∧ d.value ≠ identity L := by
  induction cap generalizing rs d with
  | zero => cases h
  | succ cap ih =>
    obtain ⟨hne, rfl⟩ | ⟨-, d', hd', rfl⟩ := genPerm_succ_cases h
    · exact ⟨attempt_isBij g hL n rs, hne⟩
    · exact ih (d := d') hd'

/-- A pool of `k + 1` entries is one permutation and then a pool of `k` from the stream it leaves. -/
theorem genPool_succ_cases {d : Drawn σ (List Perm)} (h : genPool g L n cap (k + 1) rs = some d) :
    ∃ e ds, genPerm g L n cap rs = some e ∧ genPool g L n cap k e.stream = some ds ∧
      d = { value := e.value :: ds.value, attempts := e.attempts + ds.attempts, stream := ds.stream } := by
  unfold genPool at h
  split at h
  · cases h
  next e he =>
    split at h
    · cases h
    next ds hds => exact ⟨e, ds, he, hds, (Option.some.inj h).symm⟩

theorem genPool_sound (hL : 0 < L) {d : Drawn σ (List Perm)} (h : genPool g L n cap k rs = some d) :
    d.value.length = k ∧ ∀ q ∈ d.value, isBij L q = true ∧ q ≠ identity L := by
  induction k generalizing rs d with
  | zero =>
    obtain rfl := Option.some.inj h
    simp
  | succ k ih =>
    obtain ⟨e, ds, he, hds, rfl⟩ := genPool_succ_cases h
    obtain ⟨hlen, hall⟩ := ih hds
    exact ⟨congrArg (· + 1) hlen, List.forall_mem_cons.2 ⟨genPerm_sound hL he, hall⟩⟩

/-- The two pools are made one after the other from one stream. -/
theorem genPools_cases {p : Params} {seed : Word} {d : Drawn σ Pools} (h : genPools g p seed = some d) :
    ∃ a b, genPool g Config.structuralSize p.swapCount p.maxAttempts p.n (g.init seed) = some a ∧
      genPool g Config.substitutionSize p.swapCount p.maxAttempts p.n a.stream = some b ∧
      d = { value := { structural := a.value, substitution := b.value }, attempts := a.attempts + b.attempts,
            stream := b.stream } := by
  unfold genPools at h
  split at h
  · cases h
  next a ha =>
    split at h
    · cases h
    next b hb => exact ⟨a, b, ha, hb, (Option.some.inj h).symm⟩

/-- The pool invariant of R34, as a proposition. -/
theorem Pools.wf_iff {N : Nat} {p : Pools} : p.wf N = true ↔
    p.structural.length = N ∧ p.substitution.length = N ∧
    (∀ q ∈ p.structural, isBij 32 q = true ∧ q ≠ identity 32) ∧
    (∀ q ∈ p.substitution, isBij 16 q = true ∧ q ≠ identity 16) := by
  simp only [Pools.wf, Bool.and_eq_true, beq_iff_eq, List.all_eq_true, bne_iff_ne, and_assoc]

theorem genPools_wf {p : Params} {seed : Word} {d : Drawn σ Pools} (h : genPools g p seed = some d) :
    d.value.wf p.n = true := by
  obtain ⟨a, b, ha, hb, rfl⟩ := genPools_cases h
  obtain ⟨hlenA, hallA⟩ := genPool_sound (by decide) ha
  obtain ⟨hlenB, hallB⟩ := genPool_sound (by decide) hb
  exact Pools.wf_iff.2 ⟨hlenA, hlenB, hallA, hallB⟩

/-- Whatever stream the block is built with, the pools it makes are well formed. -/
theorem generate_wf {p : Params} {seed : Word} {pl : Pools} (h : generate p seed = some pl) : pl.wf p.n = true := by
  cases hp : p.prng with
  | xs32 =>
    obtain ⟨d, hd, rfl⟩ := Option.map_eq_some_iff.1 (generate_xs32 hp seed ▸ h)
    exact genPools_wf hd
  | platform k =>
    obtain ⟨d, hd, rfl⟩ := Option.map_eq_some_iff.1 (generate_platform hp seed ▸ h)
    exact genPools_wf hd

end Sys2Proof.Machine
end

section
/-! PROOFS. What a command can answer: the writes of a success keep the pools and `PERM_OUT` in bounds, and no command raises
`InvalidBlockLength` (R182). Both hold of every command on every state. -/

namespace Sys2Proof.Machine

variable {s : State}

/-! The checks, seen from their answer (R184). -/

theorem bind_eq_ok {ε α β : Type} {x : Except ε α} {f : α → Except ε β} {b : β} (h : (x >>= f) = .ok b) :
    ∃ a, x = .ok a ∧ f a = .ok b := by
  cases x with
  | ok a => exact ⟨a, rfl, h⟩
  | error e => cases h

theorem bind_ne_error {ε α β : Type} {x : Except ε α} {f : α → Except ε β} {e : ε} (hx : x ≠ .error e)
    (hf : ∀ a, f a ≠ .error e) : (x >>= f) ≠ .error e := by
  cases x with
  | ok a => exact hf a
  | error e' => exact fun h => hx (congrArg Except.error (Except.error.inj h))

theorem poolEntry_eq_ok {L k : Nat} {pool : List Perm} {q : Perm} (h : poolEntry L pool k = .ok q) :
    q = pool.getD k [] ∧ isBij L q = true := by
  simp only [poolEntry] at h
  split at h
  next hb => exact Except.ok.inj h ▸ ⟨rfl, hb⟩
  · cases h

theorem hostPerm_eq_ok {L : Nat} {p : Perm} (h : hostPerm L s = .ok p) : p = permIn L s ∧ isBij L p = true := by
  unfold hostPerm at h
  split at h
  next hb => exact Except.ok.inj h ▸ ⟨rfl, isBij_permIn hb⟩
  · cases h

theorem builtPools_ne_invalidBlockLength : builtPools s ≠ .error .invalidBlockLength := by
  unfold builtPools
  split <;> simp

theorem checkIndex_ne_invalidBlockLength {k : Nat} : checkIndex s k ≠ .error .invalidBlockLength := by
  unfold checkIndex
  split <;> simp

theorem poolEntry_ne_invalidBlockLength {L k : Nat} {pool : List Perm} :
    poolEntry L pool k ≠ .error .invalidBlockLength := by
  simp only [poolEntry]
  split <;> simp

theorem hostPerm_ne_invalidBlockLength {L : Nat} : hostPerm L s ≠ .error .invalidBlockLength := by
  unfold hostPerm
  split <;> simp

theorem poolKey_ne_invalidBlockLength {p q : Nat} : poolKey s p q ≠ .error .invalidBlockLength :=
  bind_ne_error builtPools_ne_invalidBlockLength fun _ =>
  bind_ne_error checkIndex_ne_invalidBlockLength fun _ =>
  bind_ne_error checkIndex_ne_invalidBlockLength fun _ =>
  bind_ne_error poolEntry_ne_invalidBlockLength fun _ =>
  bind_ne_error poolEntry_ne_invalidBlockLength fun _ => nofun

/-! What a success writes (R88). -/

/-- The writes that keep the invariant of a block with `N` entries per pool. -/
def Writes.InBounds (N : Nat) : Writes → Prop
  | .pools p => p.wf N = true
  | .blockOut _ => True
  | .permOut q => ∀ e, permAt q e < 32

theorem runBuild_ok_cases {w : Writes} (h : runBuild s = .ok w) :
    ∃ p, s.pools = none ∧ generate s.params s.seed = some p ∧ w = .pools p := by
  by_cases hp : s.pools = none
  · cases hg : generate s.params s.seed with
    | none => cases runBuild_none hp hg ▸ h
    | some p => exact ⟨p, hp, rfl, (Except.ok.inj (runBuild_some hp hg ▸ h)).symm⟩
  · cases runBuild_locked hp ▸ h

/-- Reading out an entry (`RDP`, `RDS`): it was checked to be a bijection of its domain. -/
theorem readEntry_inBounds {N L k : Nat} {pool : Pools → List Perm} {w : Writes} (hL : L ≤ 32)
    (h : (do
      let pl ← builtPools s
      checkIndex s k
      let q ← poolEntry L (pool pl) k
      pure (Writes.permOut q)) = .ok w) : w.InBounds N := by
  obtain ⟨pl, -, h⟩ := bind_eq_ok h
  obtain ⟨-, -, h⟩ := bind_eq_ok h
  obtain ⟨q, hq, h⟩ := bind_eq_ok h
  obtain rfl := Except.ok.inj h
  exact isBij_permAt_lt_32 hL (poolEntry_eq_ok hq).2

/-- Inverting a host permutation (`INV.P`, `INV.S`): it was checked to be a bijection of its domain. -/
theorem invertHostPerm_inBounds {N L : Nat} {w : Writes} (hL : L ≤ 32)
    (h : (do
      let p ← hostPerm L s
      pure (Writes.permOut (inverse L p))) = .ok w) : w.InBounds N := by
  obtain ⟨p, hp, h⟩ := bind_eq_ok h
  obtain rfl := Except.ok.inj h
  exact inverse_permAt_lt_32 hL (hostPerm_eq_ok hp).2

/-- A block result (`ENC`, `DEC`, `PAPPLY`, `SAPPLY`) has no bound to keep. -/
theorem blockResult_inBounds {N : Nat} {α : Type} {x : Except ErrCode α} {f : α → Word} {w : Writes}
    (h : (do
      let a ← x
      pure (Writes.blockOut (f a))) = .ok w) : w.InBounds N := by
  obtain ⟨a, -, h⟩ := bind_eq_ok h
  obtain rfl := Except.ok.inj h
  trivial

theorem runOf_ok_inBounds {i : Instr} {w : Writes} (h : runOf i s = .ok w) : w.InBounds s.params.n := by
  cases i with
  | build =>
    obtain ⟨p, -, hg, rfl⟩ := runBuild_ok_cases h
    exact generate_wf hg
  | enc | dec | papply | sapply => exact blockResult_inBounds h
  | invP => exact invertHostPerm_inBounds le_rfl h
  | invS => exact invertHostPerm_inBounds (L := 16) (by decide) h
  | rdp => exact readEntry_inBounds (pool := Pools.structural) le_rfl h
  | rds => exact readEntry_inBounds (L := 16) (pool := Pools.substitution) (by decide) h

/-! What a failure raises (R181, R182). -/

theorem runBuild_ne_invalidBlockLength : runBuild s ≠ .error .invalidBlockLength := by
  unfold runBuild
  split
  · simp
  · split <;> simp

theorem runOf_ne_invalidBlockLength (i : Instr) (s : State) : runOf i s ≠ .error .invalidBlockLength := by
  cases i with
  | build => exact runBuild_ne_invalidBlockLength
  | enc | dec => exact bind_ne_error poolKey_ne_invalidBlockLength fun _ => nofun
  | invP | invS | papply | sapply => exact bind_ne_error hostPerm_ne_invalidBlockLength fun _ => nofun
  | rdp | rds =>
    exact bind_ne_error builtPools_ne_invalidBlockLength fun _ =>
      bind_ne_error checkIndex_ne_invalidBlockLength fun _ =>
      bind_ne_error poolEntry_ne_invalidBlockLength fun _ => nofun

theorem code_ne_zero (e : ErrCode) : e.code ≠ 0 := by cases e <;> decide

theorem errcodeKnown_code {e : ErrCode} (h : e ≠ .invalidBlockLength) : errcodeKnown e.code = true := by
  cases e with
  | invalidBlockLength => exact absurd rfl h
  | _ => rfl

end Sys2Proof.Machine
end

section
/-! PROOFS. The invariant of the block: it holds after reset, and each thing a step can do keeps it. -/

namespace Sys2Proof.Machine

variable {s t : State}

/-- The invariant says nothing of the operands, `BLOCK_OUT`, `WDROP` and the model's own fields. -/
theorem State.Inv.frame (h : s.Inv) {cmd seed blockIn blockOut : Word} {wdrop : Bool} {permIn : Vector Word 8}
    {inputs : List Input} {reply : Option Reply} :
    State.Inv { s with cmd := cmd, seed := seed, blockIn := blockIn, blockOut := blockOut, wdrop := wdrop,
                       permIn := permIn, inputs := inputs, reply := reply } :=
  ⟨h.params_wf, h.err_done, h.err_errcode, h.errcode_known, h.busy_clear, h.pools_wf, h.permOut_small⟩

/-! Reset (R211). -/

theorem entry_replicate_zero (e : Nat) : entry (Vector.replicate 8 0) e = 0 := by
  unfold entry
  rw [Vector.getElem?_replicate]
  split <;> exact BitVec.extractLsb'_zero ..

theorem resetWith_inv {p : Params} {l : List Input} (hp : p.wf = true) : (State.resetWith p l).Inv where
  params_wf := hp
  err_done := nofun
  err_errcode := by simp [State.resetWith]
  errcode_known := rfl
  busy_clear := nofun
  pools_wf := nofun
  permOut_small e _ := by
    show (entry (Vector.replicate 8 0) e).toNat < 32
    rw [entry_replicate_zero]
    decide

/-! Completion (R65). -/

theorem State.Inv.apply (h : s.Inv) {w : Writes} (hw : w.InBounds s.params.n) : (w.apply s).Inv := by
  cases w with
  | pools p => exact { h with pools_wf := fun q hq => Option.some.inj hq ▸ hw }
  | blockOut b => exact h.frame
  | permOut q =>
    refine { h with permOut_small := fun e he => ?_ }
    rw [apply_permOut_permOut, entry_packPerm q he, BitVec.toNat_ofNat]
    exact (Nat.mod_le _ _).trans_lt (hw e)

theorem State.Inv.finishOk (h : s.Inv) : s.finishOk.Inv where
  params_wf := h.params_wf
  err_done := nofun
  err_errcode := by simp
  errcode_known := rfl
  busy_clear := nofun
  pools_wf := h.pools_wf
  permOut_small := h.permOut_small

theorem State.Inv.finishErr (h : s.Inv) {e : ErrCode} (he : e ≠ .invalidBlockLength) : (s.finishErr e).Inv where
  params_wf := h.params_wf
  err_done _ := rfl
  err_errcode := ⟨nofun, fun hc => absurd hc (code_ne_zero e)⟩
  errcode_known := errcodeKnown_code he
  busy_clear := nofun
  pools_wf := h.pools_wf
  permOut_small := h.permOut_small

theorem State.Inv.complete {r : Except ErrCode Writes} (h : s.Inv) (hok : ∀ w, r = .ok w → w.InBounds s.params.n)
    (herr : r ≠ .error .invalidBlockLength) (ht : complete s r = .next t) : t.Inv := by
  obtain ⟨w, hr, rfl⟩ | ⟨e, hr, rfl⟩ := complete_cases ht
  · exact (h.apply (hok w hr)).finishOk
  · exact h.finishErr fun he => herr (he ▸ hr)

/-! Host accesses (R63, R64, R66, R67). -/

theorem State.Inv.accept (h : s.Inv) (v : Word) : (s.accept v).Inv where
  params_wf := h.params_wf
  err_done := nofun
  err_errcode := by simp
  errcode_known := rfl
  busy_clear _ := ⟨rfl, rfl⟩
  pools_wf := h.pools_wf
  permOut_small := h.permOut_small

theorem State.Inv.writeReg (h : s.Inv) (r : Reg) (v : Word) : (writeReg s r v).Inv := by
  obtain ⟨-, hw⟩ | ⟨-, -, hw⟩ | ⟨-, -, hw⟩ | ⟨-, -, hw⟩ | ⟨-, -, hw⟩ | ⟨-, k, -, hw⟩ := writeReg_cases s r v
  · rwa [hw]
  · exact hw ▸ h.frame
  · exact hw ▸ h.accept v
  · exact hw ▸ h.frame
  · exact hw ▸ h.frame
  · exact hw ▸ h.frame

theorem State.Inv.hostAccess (h : s.Inv) {a : Access} (ht : hostAccess s a = .next t) : t.Inv := by
  obtain ⟨r, -, ⟨-, rfl⟩ | ⟨v, -, rfl⟩⟩ := hostAccess_cases ht
  · exact h.frame
  · exact (h.writeReg r v).frame

/-! The step. -/

theorem State.Inv.step (h : s.Inv) (ht : step s = .next t) : t.Inv := by
  obtain ⟨u, hu, hcase⟩ := step_cases ht
  have hinv : u.Inv := hu ▸ h.frame
  obtain ⟨-, -, r, hr, ⟨i, -, rfl⟩ | ⟨e, -, rfl⟩⟩ | ⟨-, -, rfl⟩ | ⟨a, rest, -, ha⟩ | ⟨rest, -, rfl⟩ := hcase
  · exact hinv.complete (fun _ => runOf_ok_inBounds) (runOf_ne_invalidBlockLength i u) hr
  · exact hinv.complete (by simp) (by simp) hr
  · exact hinv
  · exact hinv.hostAccess ha
  · exact resetWith_inv hinv.params_wf

/-- Settles O23, by the cases of a step: a completion, an idle turn, a host access or a reset. -/
theorem stepKeepsInvariant : Obligations.StepKeepsInvariant := fun _ _ => State.Inv.step

/-- Settles O24: the defaults of R5 are one parameter set in its ranges. -/
theorem resetHasInvariant : Obligations.ResetHasInvariant := ⟨resetWith_inv (by decide), fun _ _ => resetWith_inv⟩

end Sys2Proof.Machine
end

section
/-! PROOFS. What a completion and a host access leave unchanged, and when a step changes the pools. -/

namespace Sys2Proof.Machine

variable {s t : State}

/-! Completion (R65): whatever a command writes, the registers of the host stay. -/

section
variable (w : Writes) (s : State)

@[simp] theorem apply_params : (w.apply s).params = s.params := by cases w <;> rfl
@[simp] theorem apply_cmd : (w.apply s).cmd = s.cmd := by cases w <;> rfl
@[simp] theorem apply_seed : (w.apply s).seed = s.seed := by cases w <;> rfl
@[simp] theorem apply_blockIn : (w.apply s).blockIn = s.blockIn := by cases w <;> rfl
@[simp] theorem apply_permIn : (w.apply s).permIn = s.permIn := by cases w <;> rfl
@[simp] theorem apply_wdrop : (w.apply s).wdrop = s.wdrop := by cases w <;> rfl
@[simp] theorem apply_inputs : (w.apply s).inputs = s.inputs := by cases w <;> rfl

end

theorem complete_keeps_host_registers {r : Except ErrCode Writes} (h : complete s r = .next t) :
    t.params = s.params ∧ t.cmd = s.cmd ∧ t.seed = s.seed ∧ t.blockIn = s.blockIn ∧ t.permIn = s.permIn ∧
      t.wdrop = s.wdrop ∧ t.inputs = s.inputs := by
  obtain ⟨w, -, rfl⟩ | ⟨e, -, rfl⟩ := complete_cases h <;> simp

theorem complete_status {r : Except ErrCode Writes} (h : complete s r = .next t) :
    t.busy = false ∧ t.done = true ∧ (t.err = false ↔ t.errcode = 0) := by
  obtain ⟨w, -, rfl⟩ | ⟨e, -, rfl⟩ := complete_cases h
  · simp
  · exact ⟨rfl, rfl, nofun, fun hc => absurd hc (code_ne_zero e)⟩

/-- A completion changes the pools only by the write of `BUILD`. -/
theorem complete_pools_cases {r : Except ErrCode Writes} (h : complete s r = .next t) :
    t.pools = s.pools ∨ (∃ p, r = .ok (.pools p)) ∧ t.done = true ∧ t.err = false := by
  obtain ⟨w, rfl, rfl⟩ | ⟨e, -, rfl⟩ := complete_cases h
  · cases w with
    | pools p => exact .inr ⟨⟨p, rfl⟩, rfl, rfl⟩
    | blockOut | permOut => exact .inl rfl
  · exact .inl rfl

theorem bind_ne_ok {ε α β : Type} {x : Except ε α} {f : α → Except ε β} {b : β} (hf : ∀ a, f a ≠ .ok b) :
    (x >>= f) ≠ .ok b := fun h =>
  have ⟨a, _, ha⟩ := bind_eq_ok h
  hf a ha

/-- Only `BUILD` writes the pools, and only when they are not built (R88, R106). -/
theorem runOf_eq_ok_pools {i : Instr} {p : Pools} (h : runOf i s = .ok (.pools p)) : i = .build ∧ s.pools = none := by
  cases i with
  | build =>
    obtain ⟨-, hnone, -, -⟩ := runBuild_ok_cases h
    exact ⟨rfl, hnone⟩
  | enc | dec | invP | invS | papply | sapply => exact absurd h (bind_ne_ok fun _ => nofun)
  | rdp | rds => exact absurd h (bind_ne_ok fun _ => bind_ne_ok fun _ => bind_ne_ok fun _ => nofun)

/-! Host accesses (R33, R63, R64, R66, R67). -/

theorem Reg.writable_iff {r : Reg} :
    r.writable = true ↔ r = .cmd ∨ r = .seed ∨ r = .blockIn ∨ ∃ k, r = .permIn k := by
  cases r <;> simp [Reg.writable]

/-- A host access does one of four things: it only answers, it writes an operand of an idle block, it is a write dropped by a
busy block, or it starts a command. -/
theorem hostAccess_effect {a : Access} (h : hostAccess s a = .next t) :
    (∃ reply, t = { s with reply := reply }) ∨
    (s.busy = false ∧ ∃ seed blockIn permIn,
      t = { s with seed := seed, blockIn := blockIn, permIn := permIn, reply := some .ack }) ∨
    (s.busy = true ∧ (∃ r v, a.dir = .write v ∧ a.target s.params = .ok r ∧ r.writable = true) ∧
      t = { s.dropWrite with reply := some .ack }) ∨
    (s.busy = false ∧ ∃ v, a.dir = .write v ∧ a.target s.params = .ok .cmd ∧
      t = { s.accept v with reply := some .ack }) := by
  obtain ⟨r, hr, ⟨-, rfl⟩ | ⟨v, hd, rfl⟩⟩ := hostAccess_cases h
  · exact .inl ⟨_, rfl⟩
  · obtain ⟨-, hw⟩ | ⟨hwr, hb, hw⟩ | ⟨hb, rfl, hw⟩ | ⟨hb, -, hw⟩ | ⟨hb, -, hw⟩ | ⟨hb, k, -, hw⟩ :=
      writeReg_cases s r v <;> rw [hw]
    · exact .inl ⟨_, rfl⟩
    · exact .inr (.inr (.inl ⟨hb, ⟨r, v, hd, hr, hwr⟩, rfl⟩))
    · exact .inr (.inr (.inr ⟨hb, v, hd, hr, rfl⟩))
    · exact .inr (.inl ⟨hb, _, _, _, rfl⟩)
    · exact .inr (.inl ⟨hb, _, _, _, rfl⟩)
    · exact .inr (.inl ⟨hb, _, _, _, rfl⟩)

theorem hostAccess_keeps_results {a : Access} (h : hostAccess s a = .next t) :
    t.params = s.params ∧ t.blockOut = s.blockOut ∧ t.permOut = s.permOut ∧ t.pools = s.pools := by
  obtain ⟨_, rfl⟩ | ⟨-, _, _, _, rfl⟩ | ⟨-, -, rfl⟩ | ⟨-, _, -, -, rfl⟩ := hostAccess_effect h <;>
    exact ⟨rfl, rfl, rfl, rfl⟩

theorem hostAccess_of_busy {a : Access} (hb : s.busy = true) (h : hostAccess s a = .next t) :
    ∃ wdrop reply, t = { s with wdrop := wdrop, reply := reply } := by
  obtain ⟨_, rfl⟩ | ⟨hidle, -⟩ | ⟨-, -, rfl⟩ | ⟨hidle, -⟩ := hostAccess_effect h
  · exact ⟨_, _, rfl⟩
  · simp [hb] at hidle
  · exact ⟨_, _, rfl⟩
  · simp [hb] at hidle

/-! The step (R65, R69). -/

theorem completeCommand_eq_complete (s : State) : ∃ r, completeCommand s = complete s r := by
  unfold completeCommand
  split
  · exact ⟨_, exec_eq_complete _ s⟩
  · exact ⟨_, rfl⟩

theorem step_of_sequencerNext (h : s.SequencerNext) : step s = sequencerTurn { s with inputs := s.inputs.tail } := by
  obtain ⟨params, cmd, busy, done, err, errcode, wdrop, seed, blockIn, blockOut, permIn, permOut, pools, inputs, reply⟩ := s
  obtain rfl | ⟨rest, rfl⟩ := h <;> rfl

theorem step_of_reset {rest : List Input} (h : s.inputs = .reset :: rest) :
    step s = .next (resetBlock { s with inputs := rest }) := by
  simp only [step, h]

theorem step_reset_pools {rest : List Input} (hin : s.inputs = .reset :: rest) (h : step s = .next t) : t.pools = none := by
  obtain rfl := Host.Outcome.next.inj (step_of_reset hin ▸ h)
  rfl

theorem step_params (h : step s = .next t) : t.params = s.params := by
  obtain ⟨u, rfl, ⟨-, -, r, hr, -⟩ | ⟨-, -, rfl⟩ | ⟨a, rest, -, ha⟩ | ⟨rest, -, rfl⟩⟩ := step_cases h
  · exact (complete_keeps_host_registers hr).1
  · rfl
  · exact (hostAccess_keeps_results ha).1
  · rfl

/-- A step keeps the pools, or it is a reset, or it is the successful completion of `BUILD` on a block without pools (R27). -/
theorem step_pools_cases (h : step s = .next t) :
    t.pools = s.pools ∨ (∃ rest, s.inputs = .reset :: rest) ∨
    (s.pools = none ∧ s.busy = true ∧ s.SequencerNext ∧ decode s.cmd = .ok .build ∧ t.done = true ∧ t.err = false) := by
  obtain ⟨u, rfl, ⟨hn, hb, r, hr, hrun⟩ | ⟨-, -, rfl⟩ | ⟨a, rest, -, ha⟩ | ⟨rest, hin, -⟩⟩ := step_cases h
  · obtain hkeep | ⟨⟨p, rfl⟩, hdone, herr⟩ := complete_pools_cases hr
    · exact .inl hkeep
    · obtain ⟨i, hi, hp⟩ | ⟨e, -, hp⟩ := hrun
      · obtain ⟨rfl, hnone⟩ := runOf_eq_ok_pools hp.symm
        exact .inr (.inr ⟨hnone, hb, hn, hi, hdone, herr⟩)
      · cases hp
  · exact .inl rfl
  · obtain ⟨-, -, -, hpools⟩ := hostAccess_keeps_results ha
    exact .inl hpools
  · exact .inr (.inl ⟨rest, hin⟩)

/-- A step keeps `WDROP`, or it is a reset, or it is a dropped write, or it is an accepted write of `CMD` (R33, R64). -/
theorem step_wdrop_cases (h : step s = .next t) :
    t.wdrop = s.wdrop ∨ ((∃ rest, s.inputs = .reset :: rest) ∧ t.wdrop = false) ∨
    (∃ a rest v, s.inputs = .access a :: rest ∧ a.dir = .write v ∧
      ((s.busy = true ∧ t.wdrop = true ∧ ∃ r, a.target s.params = .ok r ∧ r.writable = true) ∨
       (s.busy = false ∧ t.busy = true ∧ t.wdrop = false ∧ t.cmd = v ∧ a.target s.params = .ok .cmd))) := by
  obtain ⟨u, rfl, ⟨-, -, r, hr, -⟩ | ⟨-, -, rfl⟩ | ⟨a, rest, hin, ha⟩ | ⟨rest, hin, rfl⟩⟩ := step_cases h
  · obtain ⟨-, -, -, -, -, hwdrop, -⟩ := complete_keeps_host_registers hr
    exact .inl hwdrop
  · exact .inl rfl
  · obtain ⟨_, rfl⟩ | ⟨-, _, _, _, rfl⟩ | ⟨hb, ⟨r, v, hd, hr, hwr⟩, rfl⟩ | ⟨hb, v, hd, hcmd, rfl⟩ := hostAccess_effect ha
    · exact .inl rfl
    · exact .inl rfl
    · exact .inr (.inr ⟨a, rest, v, hin, hd, .inl ⟨hb, rfl, r, hr, hwr⟩⟩)
    · exact .inr (.inr ⟨a, rest, v, hin, hd, .inr ⟨hb, rfl, rfl, rfl, hcmd⟩⟩)
  · exact .inr (.inl ⟨⟨rest, hin⟩, rfl⟩)

/-- Settles O8: a turn of a busy block is `complete` of its command, whatever that answers. -/
theorem busyTurnCompletes : Obligations.BusyTurnCompletes := by
  intro s hb hn
  obtain ⟨r, hr⟩ := completeCommand_eq_complete { s with inputs := s.inputs.tail }
  obtain ⟨t, ht⟩ := complete_answers { s with inputs := s.inputs.tail } r
  have hstep : step s = .next t := by
    rw [step_of_sequencerNext hn, sequencerTurn, if_pos hb, hr, ht]
  obtain ⟨hbusy, hdone, herr⟩ := complete_status ht
  exact ⟨t, hstep, hbusy, hdone, herr, complete_keeps_host_registers ht⟩

/-- Settles O19, by the only step that makes pools and the only one that clears them. -/
theorem poolsLockedUntilReset : Obligations.PoolsLockedUntilReset := by
  refine ⟨rfl, fun s t h => ⟨fun p hp hnr => ?_, fun rest hin => ?_, fun hnone hsome => ?_⟩⟩
  · obtain hkeep | ⟨rest, hin⟩ | ⟨hnone, -⟩ := step_pools_cases h
    · rw [hkeep, hp]
    · exact absurd hin (hnr rest)
    · simp [hp] at hnone
  · exact step_reset_pools hin h
  · obtain hkeep | ⟨rest, hin⟩ | ⟨-, hbuild⟩ := step_pools_cases h
    · exact absurd (hkeep.trans hnone) hsome
    · exact absurd (step_reset_pools hin h) hsome
    · exact hbuild

/-- Settles O20: completion and reset clear `BUSY`, an idle turn needs it clear, and an access to a busy block only records. -/
theorem operandsStableWhileBusy : Obligations.OperandsStableWhileBusy := by
  intro s t h hs ht
  obtain ⟨u, rfl, ⟨-, -, r, hr, -⟩ | ⟨-, hidle, -⟩ | ⟨a, rest, -, ha⟩ | ⟨rest, -, rfl⟩⟩ := step_cases h
  · obtain ⟨hbusy, -⟩ := complete_status hr
    simp [ht] at hbusy
  · simp [hs] at hidle
  · obtain ⟨wdrop, reply, rfl⟩ := hostAccess_of_busy (s := { s with inputs := s.inputs.tail }) hs ha
    exact ⟨rfl, rfl, rfl, rfl, rfl, rfl, rfl, rfl⟩
  · simp at ht

/-- Settles O21: what is left is an idle turn, which changes nothing, and the four effects of an access. -/
theorem resultsChangeOnlyAtCompletion : Obligations.ResultsChangeOnlyAtCompletion := by
  intro s t h hnc hnr
  obtain ⟨u, rfl, ⟨hn, hb, -⟩ | ⟨-, -, rfl⟩ | ⟨a, rest, hin, ha⟩ | ⟨rest, hin, -⟩⟩ := step_cases h
  · exact absurd ⟨hb, hn⟩ hnc
  · exact ⟨rfl, rfl, rfl, .inl ⟨rfl, rfl, rfl, rfl, rfl⟩⟩
  · obtain ⟨-, hblockOut, hpermOut, hpools⟩ := hostAccess_keeps_results ha
    refine ⟨hblockOut, hpermOut, hpools, ?_⟩
    obtain ⟨_, rfl⟩ | ⟨-, _, _, _, rfl⟩ | ⟨-, -, rfl⟩ | ⟨hb, v, hd, hcmd, rfl⟩ := hostAccess_effect ha
    · exact .inl ⟨rfl, rfl, rfl, rfl, rfl⟩
    · exact .inl ⟨rfl, rfl, rfl, rfl, rfl⟩
    · exact .inl ⟨rfl, rfl, rfl, rfl, rfl⟩
    · exact .inr ⟨hb, rfl, rfl, rfl, rfl, a, rest, hin, hcmd, hd⟩
  · exact absurd hin (hnr rest)

/-- Settles O22: of the ways a step treats `WDROP`, only a dropped write sets it, and only an accepted command or a reset
clears it. -/
theorem droppedWriteFlag : Obligations.DroppedWriteFlag := by
  intro s t h
  obtain hkeep | ⟨hreset, hclear⟩ | ⟨a, rest, v, hin, hd, ⟨hb, hset, r, hr, hwr⟩ | ⟨hb, hb', hclear, hcmd, hr⟩⟩ :=
    step_wdrop_cases h
  · exact ⟨fun h0 h1 => by simp [hkeep, h0] at h1, fun h1 h0 => by simp [hkeep, h1] at h0⟩
  · exact ⟨fun _ h1 => by simp [hclear] at h1, fun _ _ => .inl hreset⟩
  · exact ⟨fun _ _ => ⟨hb, a, rest, r, v, hin, hd, hr, Reg.writable_iff.1 hwr⟩, fun _ h0 => by simp [hset] at h0⟩
  · exact ⟨fun _ h1 => by simp [hclear] at h1, fun _ _ => .inr ⟨hb, hb', a, rest, v, hin, hd, hr, hcmd⟩⟩

end Sys2Proof.Machine
end

section
/-! PROOFS. The words of `STATUS` and `INFO`, the register map, accesses that read a register, and the pools of a build. -/

namespace Sys2Proof.Machine

variable {s t : State}

/-! `STATUS` and `INFO` (R24, R28). -/

theorem getLsbD_statusWord (s : State) (k : Nat) : s.statusWord.getLsbD k =
    if k < 5 then [s.busy, s.done, s.err, s.pools.isSome, s.wdrop].getD k false
    else if 8 ≤ k ∧ k < 12 then s.errcode.getLsbD (k - 8) else false := by
  simp only [State.statusWord, State.poolValid, BitVec.getLsbD_cast, BitVec.getLsbD_append, BitVec.getLsbD_ofBool,
    BitVec.getLsbD_zero]
  by_cases hk : k < 12
  · interval_cases k <;> simp
  · iterate 7 rw [if_neg (by omega)]
    rw [if_neg (by omega), if_neg (by omega)]

/-- Settles O14: each clause reads one field off the bits of `STATUS`. -/
theorem statusLayout : Obligations.StatusLayout := by
  intro s
  simp only [getLsbD_statusWord]
  refine ⟨rfl, rfl, rfl, rfl, rfl, fun k h5 h8 => ?_, fun k h4 => ?_, fun k h12 => ?_⟩
  · rw [if_neg (by omega), if_neg (by omega)]
  · rw [if_neg (by omega), if_pos (by omega), Nat.add_sub_cancel_left]
  · rw [if_neg (by omega), if_neg (by omega)]

/-- A concatenation as a number. -/
theorem toNat_append_eq_add {m n : Nat} (x : BitVec m) (y : BitVec n) :
    (x ++ y).toNat = x.toNat * 2 ^ n + y.toNat := by
  rw [BitVec.toNat_append, ← Nat.shiftLeft_add_eq_or_of_lt y.isLt, Nat.shiftLeft_eq]

/-- Under the ranges of R5 the two variable fields of `INFO` fit their eight bits. -/
theorem toNat_infoWord {p : Params} (h : p.wf = true) :
    (infoWord p).toNat = 32 + 16 * 256 + (p.n - 1) * 65536 + p.swapCount * 16777216 := by
  simp only [Params.wf, Bool.and_eq_true, decide_eq_true_eq] at h
  have hn : (p.n - 1) % 2 ^ 8 = p.n - 1 := Nat.mod_eq_of_lt (by omega)
  have hswap : p.swapCount % 2 ^ 8 = p.swapCount := Nat.mod_eq_of_lt (by omega)
  simp only [infoWord, BitVec.toNat_cast, toNat_append_eq_add, BitVec.toNat_ofNat, hn, hswap, Config.substitutionSize,
    Config.width]
  omega

/-- Settles O15: `INFO` reads only the parameters, and no step changes those. -/
theorem infoLayout : Obligations.InfoLayout :=
  ⟨fun _ => toNat_infoWord, by decide, fun _ _ h => congrArg infoWord (step_params h)⟩

/-! The register map (R22). -/

theorem ofOffset_offset (r : Reg) : Reg.ofOffset r.offset = some r := by
  cases r with
  | permIn k => exact ofOffset_permIn k
  | permOut k => exact ofOffset_permOut k
  | cmd | status | seed | blockIn | blockOut | info => rfl

theorem offset_of_ofOffset {off : Nat} {r : Reg} (h4 : off % 4 = 0) (h : Reg.ofOffset off = some r) : r.offset = off := by
  unfold Reg.ofOffset at h
  split_ifs at h
  all_goals
    obtain rfl := Option.some.inj h
    simp only [Reg.offset]
    omega

/-- Settles O16: the map undoes `Reg.offset`, and each of its branches answers the register of that offset. -/
theorem registerMapRoundTrip : Obligations.RegisterMapRoundTrip :=
  ⟨ofOffset_offset, fun _ _ => offset_of_ofOffset⟩

/-- Every register is an aligned word inside the window. -/
theorem offset_aligned (r : Reg) : r.offset % 4 = 0 ∧ r.offset < 0x100 := by
  cases r with
  | permIn k | permOut k => simp only [Reg.offset]; omega
  | cmd | status | seed | blockIn | blockOut | info => decide

/-- Where the operand registers stand (R22). -/
theorem operand_offset {off : Nat} (h : off = 0x08 ∨ off = 0x0C ∨ (0x20 ≤ off ∧ off ≤ 0x3C ∧ off % 4 = 0)) :
    ∃ r : Reg, r.offset = off ∧ r.writable = true := by
  obtain rfl | rfl | ⟨hlo, hhi, h4⟩ := h
  · exact ⟨.seed, rfl, rfl⟩
  · exact ⟨.blockIn, rfl, rfl⟩
  · exact ⟨.permIn ⟨(off - 0x20) / 4, by omega⟩, by simp only [Reg.offset]; omega, rfl⟩

/-! Reads (R67), and a read after a write (R218). -/

@[simp] theorem readReg_bus_fields (s : State) (inputs : List Input) (reply : Option Reply) (r : Reg) :
    readReg { s with inputs := inputs, reply := reply } r = readReg s r := by cases r <;> rfl

theorem writeReg_params (s : State) (r : Reg) (v : Word) : (writeReg s r v).params = s.params := by
  cases hb : s.busy <;> cases r <;> simp [writeReg, hb]

theorem writeReg_with_inputs (s : State) (inputs : List Input) (r : Reg) (v : Word) :
    writeReg { s with inputs := inputs } r v = { writeReg s r v with inputs := inputs } := by
  cases hb : s.busy <;> cases r <;> simp [writeReg, hb, State.accept, State.dropWrite]

theorem readReg_writeReg {r : Reg} (v : Word) (hb : s.busy = false) (hr : r.writable = true) :
    readReg (writeReg s r v) r = v := by
  obtain rfl | rfl | rfl | ⟨k, rfl⟩ := Reg.writable_iff.1 hr <;> simp [writeReg, readReg, hb]

/-- A read of any register answers its value and changes nothing of the block. -/
theorem step_reading (s : State) (r : Reg) (rest : List Input) : step (Spec.reading s r.offset rest) =
    .next { s with inputs := rest, reply := some (.data (readReg s r)) } := by
  obtain ⟨h4, hlt⟩ := offset_aligned r
  rw [Spec.reading, step_memRead h4 hlt (ofOffset_offset r)]
  simp

theorem step_writing (s : State) (r : Reg) (v : Word) (rest : List Input) : step (Spec.writing s r.offset v rest) =
    .next { writeReg { s with inputs := rest } r v with reply := some .ack } := by
  obtain ⟨h4, hlt⟩ := offset_aligned r
  exact step_memWrite h4 hlt (ofOffset_offset r)

/-- Settles O13: every offset of the statement is a register's. -/
theorem readsReturnRegisters : Obligations.ReadsReturnRegisters := fun s rest =>
  ⟨step_reading s .cmd rest, step_reading s .status rest, step_reading s .seed rest, step_reading s .blockIn rest,
    step_reading s .blockOut rest, step_reading s .info rest, fun k => step_reading s (.permIn k) rest,
    fun k => step_reading s (.permOut k) rest⟩

theorem core_run_succ {k : Nat} (h : step s = .next t) : Host.Core.run core (k + 1) s = Host.Core.run core k t := by
  have hcore : core.step s = .next t := h
  simp only [Host.Core.run, hcore]

/-- Settles O17: the write leaves the read next, and the read finds the written word. -/
theorem readAfterOperandWrite : Obligations.ReadAfterOperandWrite := by
  intro s v rest off hb hoff
  obtain ⟨r, rfl, hr⟩ := operand_offset hoff
  have hwrite : step (Spec.writing s r.offset v (.access (memRead s.params r.offset) :: rest)) =
      .next (Spec.reading { writeReg s r v with reply := some .ack } r.offset rest) := by
    simp only [step_writing, writeReg_with_inputs, Spec.reading, writeReg_params]
  refine ⟨_, (core_run_succ hwrite).trans (core_run_succ (step_reading _ r rest)), ?_, rfl⟩
  simp [readReg_writeReg v hb hr]

/-! The pools that a build makes (R109). -/

/-- Settles O30: it is the pool invariant of R34, which every generated pair of pools has. -/
theorem builtPoolsAreNonIdentityBijections : Obligations.BuiltPoolsAreNonIdentityBijections :=
  fun _ _ _ _ h => Pools.wf_iff.1 (genPools_wf h)

end Sys2Proof.Machine
end

section
/-! PROOFS. The events at the block: what the sequencer's turn runs, which accesses the window answers, what a write does to each
kind of register, and that a busy block comes to rest. -/

namespace Sys2Proof.Machine

variable {s t : State}

/-! The sequencer's turn (R65, R195). -/

theorem sequencerTurn_of_busy {i : Instr} (hb : s.busy = true) (hi : decode s.cmd = .ok i) :
    sequencerTurn s = exec i s := by
  simp only [sequencerTurn, hb, if_true, completeCommand, hi]

theorem sequencerTurn_of_idle (hb : s.busy = false) : sequencerTurn s = .next s := by
  simp [sequencerTurn, hb]

/-- Settles O7: `step` hands both forms of the turn to the sequencer, with the event taken off. -/
theorem stepRunsDecodedCommand : Obligations.StepRunsDecodedCommand := by
  refine ⟨fun s i rest hb hi => ⟨?_, ?_⟩, fun s rest hb => ⟨?_, ?_⟩⟩
  · exact sequencerTurn_of_busy (s := { s with inputs := rest }) hb hi
  · exact sequencerTurn_of_busy (s := { s with inputs := [] }) hb hi
  · exact sequencerTurn_of_idle (s := { s with inputs := rest }) hb
  · exact sequencerTurn_of_idle (s := { s with inputs := [] }) hb

/-! Writes (R63, R64, R66): dropped by a busy block, taken by an idle one, ignored by a read-only register. -/

theorem writeReg_of_busy {r : Reg} (v : Word) (hb : s.busy = true) (hr : r.writable = true) :
    writeReg s r v = s.dropWrite := by
  obtain rfl | rfl | rfl | ⟨k, rfl⟩ := Reg.writable_iff.1 hr <;> exact if_pos hb

theorem writeReg_of_readOnly {r : Reg} (v : Word) (hr : r.writable = false) : writeReg s r v = s := by
  cases r with
  | cmd | seed | blockIn | permIn => cases hr
  | status | blockOut | info | permOut => rfl

theorem writeReg_of_idle (v : Word) (hb : s.busy = false) :
    writeReg s .cmd v = s.accept v ∧ writeReg s .seed v = { s with seed := v } ∧
      writeReg s .blockIn v = { s with blockIn := v } ∧
      ∀ k, writeReg s (.permIn k) v = { s with permIn := s.permIn.set k v } := by
  simp [writeReg, hb]

/-- A write to any host register of a busy block sets `WDROP` and nothing else (R33, R64, R66). -/
theorem step_writing_of_busy {r : Reg} (v : Word) (rest : List Input) (hb : s.busy = true) (hr : r.writable = true) :
    step (Spec.writing s r.offset v rest) = .next { s with inputs := rest, reply := some .ack, wdrop := true } := by
  rw [step_writing, writeReg_of_busy v (s := { s with inputs := rest }) hb hr, State.dropWrite]

/-- Where the read-only registers stand (R22). -/
theorem readOnly_offset {off : Nat}
    (h : off = 0x04 ∨ off = 0x10 ∨ off = 0x14 ∨ (0x40 ≤ off ∧ off ≤ 0x5C ∧ off % 4 = 0)) :
    ∃ r : Reg, r.offset = off ∧ r.writable = false := by
  obtain rfl | rfl | rfl | ⟨hlo, hhi, h4⟩ := h
  · exact ⟨.status, rfl, rfl⟩
  · exact ⟨.blockOut, rfl, rfl⟩
  · exact ⟨.info, rfl, rfl⟩
  · exact ⟨.permOut ⟨(off - 0x40) / 4, by omega⟩, by simp only [Reg.offset]; omega, rfl⟩

/-- Settles O9: offset 0 is `CMD`, and the two cases of `BUSY` are the two cases of its write. -/
theorem commandWriteAcceptedOrDropped : Obligations.CommandWriteAcceptedOrDropped := by
  refine fun s v rest => ⟨fun hb => step_writing_of_busy (r := .cmd) v rest hb rfl, fun hb => ?_⟩
  obtain ⟨hcmd, -⟩ := writeReg_of_idle (s := { s with inputs := rest }) v hb
  exact (step_writing s .cmd v rest).trans (by rw [hcmd, State.accept])

/-- Settles O10: each operand register of an idle block takes the word, and a busy block drops the write to any of them. -/
theorem operandWrites : Obligations.OperandWrites := by
  refine fun s v rest => ⟨fun hb => ?_, fun hb off hoff => ?_⟩
  · obtain ⟨-, hseed, hblockIn, hpermIn⟩ := writeReg_of_idle (s := { s with inputs := rest }) v hb
    exact ⟨(step_writing s .seed v rest).trans (by rw [hseed]), (step_writing s .blockIn v rest).trans (by rw [hblockIn]),
      fun k => (step_writing s (.permIn k) v rest).trans (by rw [hpermIn])⟩
  · obtain ⟨r, rfl, hr⟩ := operand_offset hoff
    exact step_writing_of_busy v rest hb hr

/-- Settles O11: every offset of the statement is a read-only register's. -/
theorem readOnlyWritesIgnored : Obligations.ReadOnlyWritesIgnored := by
  intro s v rest off hoff
  obtain ⟨r, rfl, hr⟩ := readOnly_offset hoff
  rw [step_writing, writeReg_of_readOnly v hr]

/-! Bus errors (R60 to R62, R186). -/

section
variable {a : Access} {p : Params}

theorem not_outsideWindow (hlo : p.base ≤ a.addr) (hhi : a.addr < p.base + 0x100) :
    ¬(a.addr < p.base ∨ p.base + Config.windowSize ≤ a.addr) := by
  simp only [Config.windowSize]
  omega

theorem target_of_misshapen (hlo : p.base ≤ a.addr) (hhi : a.addr < p.base + 0x100)
    (hshape : a.size ≠ 4 ∨ a.beats ≠ 1 ∨ (a.addr - p.base) % 4 ≠ 0) : a.target p = .error .busErrorShape := by
  simp only [Access.target, if_neg (not_outsideWindow hlo hhi), if_pos hshape]

theorem target_of_unmapped (hlo : p.base ≤ a.addr) (hhi : a.addr < p.base + 0x100) (hsize : a.size = 4)
    (hbeats : a.beats = 1) (h4 : (a.addr - p.base) % 4 = 0) (hnone : Reg.ofOffset (a.addr - p.base) = none) :
    a.target p = .error .busErrorReserved := by
  simp [Access.target, not_outsideWindow hlo hhi, hsize, hbeats, h4, hnone]

end

/-- Which aligned offsets are reserved (R22, R62). -/
theorem ofOffset_eq_none_iff {off : Nat} (h4 : off % 4 = 0) :
    Reg.ofOffset off = none ↔ off = 0x18 ∨ off = 0x1C ∨ 0x60 ≤ off := by
  unfold Reg.ofOffset
  split_ifs <;> simp only [false_iff, true_iff] <;> omega

theorem hostAccess_of_target_error {a : Access} {f : Fault} (h : a.target s.params = .error f) :
    hostAccess s a = .fault f := by
  simp only [hostAccess, h]

theorem hostAccess_answers {a : Access} {r : Reg} (h : a.target s.params = .ok r) : ∃ t, hostAccess s a = .next t := by
  simp only [hostAccess, h]
  cases a.dir with
  | read => exact ⟨_, rfl⟩
  | write v => exact ⟨_, rfl⟩

/-- Settles O12: the target of the access decides, and an aligned offset has no register exactly where R22 reserves it. -/
theorem busErrorsExactly : Obligations.BusErrorsExactly := by
  refine fun s a rest hlo hhi => ⟨fun hshape => ?_, fun hsize hbeats h4 => ⟨fun hres => ?_, fun hmapped => ?_⟩⟩
  · exact hostAccess_of_target_error (s := { s with inputs := rest }) (target_of_misshapen hlo hhi hshape)
  · have hnone := (ofOffset_eq_none_iff h4).2 hres
    exact hostAccess_of_target_error (s := { s with inputs := rest })
      (target_of_unmapped hlo hhi hsize hbeats h4 hnone)
  · have hsome : Reg.ofOffset (a.addr - s.params.base) ≠ none := by
      rw [Ne, ofOffset_eq_none_iff h4]
      omega
    obtain ⟨r, hr⟩ := Option.ne_none_iff_exists'.1 hsome
    exact hostAccess_answers (s := { s with inputs := rest })
      ((target_ok_iff a s.params r).2 ⟨hlo, hhi, hsize, hbeats, h4, hr⟩)

/-! A busy block comes to rest (R65, R219). -/

theorem noBusError_access_iff {a : Access} {p : Params} :
    (Input.access a).noBusError p = true ↔ ∃ r, a.target p = .ok r := by
  cases h : a.target p <;> simp [Input.noBusError, h]

/-- An access without a bus error leaves a busy block busy, with one event less to come. -/
theorem step_access_of_busy {a : Access} {rest : List Input} (hin : s.inputs = .access a :: rest) (hb : s.busy = true)
    (hsafe : s.NoBusError) : ∃ t, step s = .next t ∧ t.busy = true ∧ t.inputs = rest ∧ t.NoBusError := by
  have hmem : ∀ x ∈ rest, x.noBusError s.params = true := fun x hx => hsafe x (hin ▸ List.mem_cons_of_mem _ hx)
  obtain ⟨r, hr⟩ := noBusError_access_iff.1 (hsafe (.access a) (hin ▸ List.mem_cons_self))
  obtain ⟨t, ht⟩ := hostAccess_answers (s := { s with inputs := rest }) hr
  have hstep : step s = .next t := by simp only [step, hin, ht]
  obtain ⟨wdrop, reply, rfl⟩ := hostAccess_of_busy (s := { s with inputs := rest }) hb ht
  exact ⟨_, hstep, hb, rfl, hmem⟩

/-- Settles O25, by induction on the events to come: a turn, a reset or the end of the list brings `BUSY = 0` in one step, and an
access leaves the rest of the list. -/
theorem acceptedCommandCompletes : Obligations.AcceptedCommandCompletes := by
  intro s hb hsafe
  induction hl : s.inputs generalizing s with
  | nil =>
    obtain ⟨t, hstep, hidle, -⟩ := busyTurnCompletes s hb (.inl hl)
    exact ⟨1, t, by simp, core_run_succ hstep, hidle⟩
  | cons x rest ih =>
    cases x with
    | turn =>
      obtain ⟨t, hstep, hidle, -⟩ := busyTurnCompletes s hb (.inr ⟨rest, hl⟩)
      exact ⟨1, t, by simp, core_run_succ hstep, hidle⟩
    | reset => exact ⟨1, _, by simp, core_run_succ (step_of_reset hl), rfl⟩
    | access a =>
      obtain ⟨u, hstep, hbusy, hrest, husafe⟩ := step_access_of_busy hl hb hsafe
      obtain ⟨k, t, hk, hrun, hidle⟩ := ih u hbusy husafe hrest
      exact ⟨k + 1, t, by simpa using hk, (core_run_succ hstep).trans hrun, hidle⟩

end Sys2Proof.Machine
end

section
/-! PROOFS. The command word: its fields as numbers, format `C` seen from its fields, and the decoder as the inverse of the
encoder (R81, R83, R85, R86). -/

namespace Sys2Proof

open Machine

/-! The fields of a word (R81). -/

section
variable (w : Word)

theorem opField_eq : opField w = w.toNat % 16 := by simp [opField]

theorem domainField_eq : domainField w = w.toNat / 16 % 2 := by simp [domainField, Nat.shiftRight_eq_div_pow]

theorem rsv0Field_eq : rsv0Field w = w.toNat / 32 % 8 := by simp [rsv0Field, Nat.shiftRight_eq_div_pow]

theorem pidxField_eq : pidxField w = w.toNat / 256 % 256 := by simp [pidxField, Nat.shiftRight_eq_div_pow]

theorem sidxField_eq : sidxField w = w.toNat / 65536 % 256 := by simp [sidxField, Nat.shiftRight_eq_div_pow]

theorem rsv1Field_eq : rsv1Field w = w.toNat / 16777216 := by
  have hw := w.isLt
  simp only [rsv1Field, BitVec.extractLsb'_toNat, Nat.shiftRight_eq_div_pow]
  omega

end

theorem indexOk_iff {k : Nat} : indexOk k = true ↔ k % 256 = k := by
  rw [indexOk, decide_eq_true_iff, Nat.mod_eq_iff_lt (by decide)]

@[simp] theorem indexOk_pidxField (w : Word) : indexOk (pidxField w) = true := decide_eq_true (BitVec.isLt _)

@[simp] theorem indexOk_sidxField (w : Word) : indexOk (sidxField w) = true := decide_eq_true (BitVec.isLt _)

@[simp] theorem pidxField_mod (w : Word) : pidxField w % 256 = pidxField w := indexOk_iff.1 (indexOk_pidxField w)

@[simp] theorem sidxField_mod (w : Word) : sidxField w % 256 = sidxField w := indexOk_iff.1 (indexOk_sidxField w)

/-! Format `C` (R81): it takes an index modulo its 8-bit field. -/

section
variable (op : BitVec 4) (d : BitVec 1) (p s : Nat)

theorem toNat_formatC :
    (formatC op d p s).toNat = s % 256 * 65536 + p % 256 * 256 + d.toNat * 16 + op.toNat := by
  simp only [formatC, BitVec.toNat_cast, toNat_append_eq_add, BitVec.toNat_ofNat]
  omega

/-- The word of format `C` is the one word with these six fields. -/
theorem formatC_eq_iff {w : Word} : formatC op d p s = w ↔
    rsv0Field w = 0 ∧ rsv1Field w = 0 ∧ opField w = op.toNat ∧ domainField w = d.toNat ∧
      pidxField w = p % 256 ∧ sidxField w = s % 256 := by
  have hop := op.isLt
  have hd := d.isLt
  have hw := w.isLt
  rw [← BitVec.toNat_inj, toNat_formatC, opField_eq, domainField_eq, rsv0Field_eq, pidxField_eq, sidxField_eq,
    rsv1Field_eq]
  omega

theorem formatC_fields : rsv0Field (formatC op d p s) = 0 ∧ rsv1Field (formatC op d p s) = 0 ∧
    opField (formatC op d p s) = op.toNat ∧ domainField (formatC op d p s) = d.toNat ∧
    pidxField (formatC op d p s) = p % 256 ∧ sidxField (formatC op d p s) = s % 256 :=
  (formatC_eq_iff op d p s).1 rfl

end

variable {w : Word} {i : Instr}

/-- The operand fields hold the indices that were put into them. -/
theorem operands_of_formatC {op : BitVec 4} {d : BitVec 1} {p s : Nat} (hp : indexOk p = true) (hs : indexOk s = true)
    (h : formatC op d p s = w) : p = w.toNat / 256 % 256 ∧ s = w.toNat / 65536 % 256 := by
  obtain ⟨-, -, -, -, hpidx, hsidx⟩ := (formatC_eq_iff op d p s).1 h
  rw [← pidxField_eq, ← sidxField_eq, hpidx, hsidx, indexOk_iff.1 hp, indexOk_iff.1 hs]
  exact ⟨rfl, rfl⟩

/-! The decoder against the encoder (R83, R86). -/

theorem decode_encode (h : i.wf = true) : decode (encode i) = .ok i := by
  cases i with
  | build | invP | invS | papply | sapply => rfl
  | enc | dec | rdp | rds =>
    simp only [Instr.wf, Bool.and_eq_true, indexOk_iff] at h
    simp [decode, whenUnused, encode, formatC_fields, h]

theorem whenUnused_eq_ok_iff {unused : Bool} {j : Instr} : whenUnused unused j = .ok i ↔ unused = true ∧ j = i := by
  cases unused <;> simp [whenUnused]

theorem whenUnused_eq_error {unused : Bool} {e : DecodeError} (h : whenUnused unused i = .error e) : unused = false := by
  cases unused with
  | false => rfl
  | true => cases h

/-- A word that decodes has in each field what `encode` writes there. -/
theorem encode_of_decode (h : decode w = .ok i) : encode i = w ∧ i.wf = true := by
  simp only [decode] at h
  split_ifs at h with h0 h1
  rw [not_not] at h0 h1
  split at h
  case h_10 => split_ifs at h
  case h_2 | h_3 =>
    obtain rfl := Except.ok.inj h
    simp [encode, formatC_eq_iff, Instr.wf, *]
  all_goals
    obtain ⟨hunused, rfl⟩ := whenUnused_eq_ok_iff.1 h
    simp only [Bool.and_eq_true, beq_iff_eq] at hunused
    simp [encode, formatC_eq_iff, Instr.wf, *]

/-- Settles O1: `decode` reads back each field that `encode` wrote, and an index in 0..255 fills its field without loss. -/
theorem decodeOfEncodeIsIdentity : Obligations.DecodeOfEncodeIsIdentity := fun _ => decode_encode

/-- Settles O2: each accepting branch of `decode` fixes all six fields, and a word is determined by them. -/
theorem encodeOfDecodeIsIdentity : Obligations.EncodeOfDecodeIsIdentity := fun _ _ => encode_of_decode

/-- Settles O6: the legal words are encodings; the illegal ones have a nonzero `RSV1` and a `D` that no row has. -/
theorem specWordsDecode : Obligations.SpecWordsDecode :=
  ⟨decode_encode (i := .build) rfl, decode_encode (i := .enc 20 2) rfl, decode_encode (i := .dec 20 2) rfl,
    decode_encode (i := .invS) rfl, decode_encode (i := .rdp 20) rfl, decode_encode (i := .rds 1) rfl,
    decode_encode (i := .papply) rfl, rfl, rfl⟩

/-! Illegal words (R85). -/

/-- The five points of R85, on the fields. -/
theorem illegal_iff : Spec.illegal w ↔ rsv0Field w ≠ 0 ∨ rsv1Field w ≠ 0 ∨ (opField w = 0 ∨ 8 ≤ opField w) ∨
    (domainField w = 1 ∧ opField w ≠ 4 ∧ opField w ≠ 5) ∨
    ((opField w = 1 ∨ opField w = 4 ∨ opField w = 6 ∨ opField w = 7) ∧ (pidxField w ≠ 0 ∨ sidxField w ≠ 0)) ∨
    (opField w = 5 ∧ domainField w = 0 ∧ sidxField w ≠ 0) ∨ (opField w = 5 ∧ domainField w = 1 ∧ pidxField w ≠ 0) := by
  rw [opField_eq, domainField_eq, rsv0Field_eq, pidxField_eq, sidxField_eq, rsv1Field_eq]
  rfl

theorem not_illegal_encode (i : Instr) : ¬Spec.illegal (encode i) := by
  cases i <;> simp [encode, illegal_iff, formatC_fields]

/-- Each refusing branch of `decode` is one of R85's points. -/
theorem illegal_of_decode_error {e : DecodeError} (h : decode w = .error e) : Spec.illegal w := by
  have hd : domainField w < 2 := BitVec.isLt _
  rw [illegal_iff]
  simp only [decode] at h
  split_ifs at h with h0 h1
  · exact .inl h0
  · exact .inr (.inl h1)
  split at h
  case h_10 =>
    split_ifs at h with hop
    · exact .inr (.inr (.inl hop))
    · exact .inr (.inr (.inr (.inl (by grind))))
  case h_2 | h_3 => cases h
  all_goals
    have hunused := whenUnused_eq_error h
    simp only [Bool.and_eq_false_iff, beq_eq_false_iff_ne] at hunused
    omega

theorem decode_error_iff_illegal : (∃ e, decode w = .error e) ↔ Spec.illegal w := by
  refine ⟨fun ⟨e, he⟩ => illegal_of_decode_error he, fun hw => ?_⟩
  cases h : decode w with
  | error e => exact ⟨e, rfl⟩
  | ok i =>
    obtain ⟨rfl, -⟩ := encode_of_decode h
    exact absurd hw (not_illegal_encode i)

theorem sequencerTurn_of_illegal {s : State} (hb : s.busy = true) (h : Spec.illegal s.cmd) :
    sequencerTurn s = .next (s.finishErr .illegalCommand) := by
  obtain ⟨e, he⟩ := decode_error_iff_illegal.2 h
  simp only [sequencerTurn, hb, if_true, completeCommand, he, complete_error]

/-- Settles O4: the write of `CMD` does not look at the word, and the turn fails where `decode` does. -/
theorem illegalWordsFailWithCode4 : Obligations.IllegalWordsFailWithCode4 := by
  refine ⟨fun w => decode_error_iff_illegal, fun s v rest hb _ => ?_, fun s rest hb h => ?_,
    illegal_of_decode_error rfl, rfl⟩
  · exact (commandWriteAcceptedOrDropped s v rest).2 hb
  · exact sequencerTurn_of_illegal (s := { s with inputs := rest }) hb h

end Sys2Proof
end

section
/-! PROOFS. The opcode map and the assembler: a row selects a word exactly when the word decodes to its command (R83), and the
words of R89. -/

namespace Sys2Proof

open Machine

variable {w : Word} {i : Instr} {r r' : OpcodeRow}

/-! The opcode map (R83). -/

theorem exists_row_selecting_encode (h : i.wf = true) :
    ∃ r ∈ opcodeMap, r.mnemonic = i.mnemonic ∧ r.selects (encode i) = true := by
  cases i with
  | build => exact Laws.RowMatch.build h
  | enc p s => exact Laws.RowMatch.enc p s h
  | dec p s => exact Laws.RowMatch.dec p s h
  | invP => exact Laws.RowMatch.invP h
  | invS => exact Laws.RowMatch.invS h
  | rdp p => exact Laws.RowMatch.rdp p h
  | rds s => exact Laws.RowMatch.rds s h
  | papply => exact Laws.RowMatch.papply h
  | sapply => exact Laws.RowMatch.sapply h

theorem opcodeMap_mnemonic_injective :
    ∀ r ∈ opcodeMap, ∀ r' ∈ opcodeMap, r.mnemonic = r'.mnemonic → r = r' := by decide

/-- A field that the mask covers whole is the same in a word and in its match word. -/
theorem extractLsb'_of_and_eq {mask v : Word} {start len : Nat} (h : w &&& mask = v)
    (hmask : mask.extractLsb' start len = BitVec.allOnes len) : w.extractLsb' start len = v.extractLsb' start len := by
  rw [← h, BitVec.extractLsb'_and, hmask, BitVec.and_allOnes]

/-- A word that a row selects is an encoding: the mask fixes every field but the row's operands, and those are read off. -/
theorem exists_encode_of_selects (hr : r ∈ opcodeMap) (h : w &&& r.mask = r.matchWord) :
    ∃ i, i.wf = true ∧ encode i = w ∧ i.mnemonic = r.mnemonic := by
  have field {start len : Nat} (hmask : r.mask.extractLsb' start len = BitVec.allOnes len) :=
    congrArg BitVec.toNat (extractLsb'_of_and_eq h hmask)
  have hp := (pidxField_mod w).symm
  have hs := (sidxField_mod w).symm
  have word {op d p s} := (formatC_eq_iff op d p s (w := w)).2
  simp only [opcodeMap, List.mem_cons, List.not_mem_nil, or_false] at hr
  obtain rfl | rfl | rfl | rfl | rfl | rfl | rfl | rfl | rfl := hr
  · exact ⟨.build, rfl, h.symm.trans BitVec.and_allOnes, rfl⟩
  · exact ⟨.enc (pidxField w) (sidxField w), by simp [Instr.wf],
      word ⟨field rfl, field rfl, field rfl, field rfl, hp, hs⟩, rfl⟩
  · exact ⟨.dec (pidxField w) (sidxField w), by simp [Instr.wf],
      word ⟨field rfl, field rfl, field rfl, field rfl, hp, hs⟩, rfl⟩
  · exact ⟨.invP, rfl, h.symm.trans BitVec.and_allOnes, rfl⟩
  · exact ⟨.invS, rfl, h.symm.trans BitVec.and_allOnes, rfl⟩
  · exact ⟨.rdp (pidxField w), indexOk_pidxField w,
      word ⟨field rfl, field rfl, field rfl, field rfl, hp, field rfl⟩, rfl⟩
  · exact ⟨.rds (sidxField w), indexOk_sidxField w,
      word ⟨field rfl, field rfl, field rfl, field rfl, field rfl, hs⟩, rfl⟩
  · exact ⟨.papply, rfl, h.symm.trans BitVec.and_allOnes, rfl⟩
  · exact ⟨.sapply, rfl, h.symm.trans BitVec.and_allOnes, rfl⟩

theorem exists_row_of_decode (h : decode w = .ok i) :
    ∃ r ∈ opcodeMap, r.mnemonic = i.mnemonic ∧ w &&& r.mask = r.matchWord := by
  obtain ⟨rfl, hwf⟩ := encode_of_decode h
  obtain ⟨r, hr, hmnemonic, hsel⟩ := exists_row_selecting_encode hwf
  exact ⟨r, hr, hmnemonic, beq_iff_eq.1 hsel⟩

theorem selects_iff_decode (hr : r ∈ opcodeMap) :
    w &&& r.mask = r.matchWord ↔ ∃ i, decode w = .ok i ∧ i.mnemonic = r.mnemonic := by
  constructor
  · intro h
    obtain ⟨i, hwf, rfl, hmnemonic⟩ := exists_encode_of_selects hr h
    exact ⟨i, decode_encode hwf, hmnemonic⟩
  · rintro ⟨i, hi, hmnemonic⟩
    obtain ⟨r', hr', hmnemonic', hsel⟩ := exists_row_of_decode hi
    obtain rfl := opcodeMap_mnemonic_injective r hr r' hr' (hmnemonic.symm.trans hmnemonic'.symm)
    exact hsel

theorem selected_row_unique (hr : r ∈ opcodeMap) (hr' : r' ∈ opcodeMap) (h : w &&& r.mask = r.matchWord)
    (h' : w &&& r'.mask = r'.matchWord) : r = r' := by
  obtain ⟨i, hi, hmnemonic⟩ := (selects_iff_decode hr).1 h
  obtain ⟨j, hj, hmnemonic'⟩ := (selects_iff_decode hr').1 h'
  obtain rfl := Except.ok.inj (hi.symm.trans hj)
  exact opcodeMap_mnemonic_injective r hr r' hr' (hmnemonic.symm.trans hmnemonic')

theorem no_row_selects_iff : (∀ r ∈ opcodeMap, w &&& r.mask ≠ r.matchWord) ↔ ∃ e, decode w = .error e := by
  cases h : decode w with
  | error e =>
    refine iff_of_true (fun r hr hsel => ?_) ⟨e, rfl⟩
    obtain ⟨i, hi, -⟩ := (selects_iff_decode hr).1 hsel
    cases h.symm.trans hi
  | ok i =>
    obtain ⟨r, hr, -, hsel⟩ := exists_row_of_decode h
    exact iff_of_false (fun hno => hno r hr hsel) nofun

/-- Settles O3: a row's words are the encodings of its command, and an encoding has its operands in `PIDX` and `SIDX`. -/
theorem decodeAgreesWithOpcodeMap : Obligations.DecodeAgreesWithOpcodeMap := by
  refine fun w => ⟨fun r => selects_iff_decode, fun r hr r' hr' => selected_row_unique hr hr', no_row_selects_iff,
    fun p s h => ?_, fun p h => ?_, fun s h => ?_⟩
  · obtain h | h := h
    all_goals
      obtain ⟨hword, hwf⟩ := encode_of_decode h
      obtain ⟨hp, hs⟩ := (Bool.and_eq_true _ _).mp hwf
      exact operands_of_formatC hp hs hword
  · obtain ⟨hword, hwf⟩ := encode_of_decode h
    exact (operands_of_formatC hwf rfl hword).1
  · obtain ⟨hword, hwf⟩ := encode_of_decode h
    exact (operands_of_formatC rfl hwf hword).2

/-! The assembler (R89). -/

/-- An index shifted into place over lower bits, as a number. -/
theorem toNat_shiftLeft_or {k n : Nat} {x : Word} (hk : k * 2 ^ n < 2 ^ 32) (hx : x.toNat < 2 ^ n) :
    (BitVec.ofNat 32 k <<< n ||| x).toNat = k * 2 ^ n + x.toNat := by
  have hk' : k < 2 ^ 32 := (Nat.le_mul_of_pos_right k n.two_pow_pos).trans_lt hk
  rw [BitVec.toNat_or, BitVec.toNat_shiftLeft, BitVec.toNat_ofNat, Nat.mod_eq_of_lt hk', Nat.shiftLeft_eq,
    Nat.mod_eq_of_lt hk, ← Nat.shiftLeft_eq, ← Nat.shiftLeft_add_eq_or_of_lt hx]

/-- Format `C` as R89 writes it: both indices shifted into place over the low byte. -/
theorem formatC_eq_or (op : BitVec 4) (d : BitVec 1) {p s : Nat} (hp : p < 256) (hs : s < 256) :
    formatC op d p s = BitVec.ofNat 32 s <<< 16 ||| BitVec.ofNat 32 p <<< 8 ||| formatC op d 0 0 := by
  have hlow := toNat_formatC op d 0 0
  have hop := op.isLt
  have hd := d.isLt
  have hpidx : (BitVec.ofNat 32 p <<< 8 ||| formatC op d 0 0).toNat = p * 2 ^ 8 + (formatC op d 0 0).toNat :=
    toNat_shiftLeft_or (by omega) (by omega)
  refine BitVec.eq_of_toNat_eq ?_
  rw [BitVec.or_assoc, toNat_shiftLeft_or (by omega) (by omega), hpidx, hlow, toNat_formatC]
  omega

theorem assemble_of_wf (h : i.wf = true) : assemble i = some (encode i) := if_pos h

theorem assemble_of_not_wf (h : i.wf = false) : assemble i = none := by simp [assemble, h]

/-- Settles O5: the indices of a well-formed command stand shifted in its encoding, and any other command is refused. -/
theorem assemblerEncodings : Obligations.AssemblerEncodings := by
  refine ⟨⟨rfl, rfl, rfl, rfl, rfl⟩, fun p s hp hs => ?_, fun p s h => ?_, fun k hk => ?_⟩
  · have hpOk : indexOk p = true := decide_eq_true hp
    have hsOk : indexOk s = true := decide_eq_true hs
    have hwf : (indexOk p && indexOk s) = true := by rw [hpOk, hsOk]; rfl
    refine ⟨(assemble_of_wf (i := .enc p s) hwf).trans ?_, (assemble_of_wf (i := .dec p s) hwf).trans ?_,
      (assemble_of_wf (i := .rdp p) hpOk).trans ?_, (assemble_of_wf (i := .rds s) hsOk).trans ?_⟩
    · exact congrArg some (formatC_eq_or 0x2 0 hp hs)
    · exact congrArg some (formatC_eq_or 0x3 0 hp hs)
    · simpa using! formatC_eq_or 0x5 0 hp (s := 0) (by decide)
    · simpa using! formatC_eq_or 0x5 1 (p := 0) (by decide) hs
  · have hwf : (indexOk p && indexOk s) = false := by
      simp only [indexOk, Bool.and_eq_false_iff, decide_eq_false_iff_not]
      omega
    exact ⟨assemble_of_not_wf hwf, assemble_of_not_wf hwf⟩
  · have hwf : indexOk k = false := decide_eq_false (by omega)
    exact ⟨assemble_of_not_wf hwf, assemble_of_not_wf hwf⟩

end Sys2Proof
end

section
/-! PROOFS. What a command may write when it succeeds (R88, third column). -/

namespace Sys2Proof.Machine

variable {s : State} {i : Instr} {w : Writes}

/-- The one kind of write that R88 gives a command. -/
def Writes.AllowedFor : Instr → Writes → Prop
  | .build, w => ∃ p, w = .pools p
  | .enc _ _, w | .dec _ _, w | .papply, w | .sapply, w => ∃ b, w = .blockOut b
  | .invP, w | .invS, w | .rdp _, w | .rds _, w => ∃ q, w = .permOut q

theorem runOf_ok_allowed (h : runOf i s = .ok w) : w.AllowedFor i := by
  cases i with
  | build =>
    obtain ⟨p, -, -, rfl⟩ := runBuild_ok_cases h
    exact ⟨p, rfl⟩
  | enc | dec | invP | invS | papply | sapply =>
    obtain ⟨_, -, h⟩ := bind_eq_ok h
    exact ⟨_, (Except.ok.inj h).symm⟩
  | rdp | rds =>
    obtain ⟨_, -, h⟩ := bind_eq_ok h
    obtain ⟨_, -, h⟩ := bind_eq_ok h
    obtain ⟨_, -, h⟩ := bind_eq_ok h
    exact ⟨_, (Except.ok.inj h).symm⟩

/-- Settles O49: a success is the completion of the command's one write, and a failed completion sets `ERR`. -/
theorem successfulCommandFrame : Obligations.SuccessfulCommandFrame := by
  intro i s t h herr
  obtain ⟨w, hw, rfl⟩ | ⟨e, -, rfl⟩ := complete_cases (exec_eq_complete i s ▸ h)
  · have hallowed := runOf_ok_allowed hw
    cases i with
    | build =>
      obtain ⟨p, rfl⟩ := hallowed
      exact ⟨rfl, nofun⟩
    | enc | dec | papply | sapply | invP | invS | rdp | rds =>
      obtain ⟨_, rfl⟩ := hallowed
      rfl
  · cases herr

end Sys2Proof.Machine
end

section
/-! PROOFS. The random stream, one attempt and one accepted permutation: draws are counted from the state a function starts at
(R101 to R104). -/

namespace Sys2Proof.Machine

/-! The stream `XS32` (R101). -/

theorem xor_ne_zero {x y : Word} (hx : x ≠ 0) (h : x = y → x = 0) : x ^^^ y ≠ 0 :=
  fun hxor => hx (h (BitVec.xor_eq_zero_iff.1 hxor))

/-- Only the zero word is its own shift, by any of the three amounts. -/
theorem xs32Next_ne_zero {x : Word} (hx : x ≠ 0) : xs32Next x ≠ 0 := by
  have h1 := xor_ne_zero hx (y := x <<< 13) (by bv_omega)
  have h2 := xor_ne_zero h1 (y := (x ^^^ x <<< 13) >>> 17) (by bv_omega)
  exact xor_ne_zero h2 (by bv_omega)

theorem xs32_init_ne_zero (seed : Word) : xs32.init seed ≠ 0 := by
  simp only [xs32]
  split
  · decide
  next hseed => exact hseed

theorem afterDraws_xs32_ne_zero {x : Word} (hx : x ≠ 0) (k : Nat) : Spec.afterDraws xs32 k x ≠ 0 := by
  induction k generalizing x with
  | zero => exact hx
  | succ k ih => exact ih (xs32Next_ne_zero hx)

/-- Settles O26: the state starts nonzero and every draw keeps it so; the listed outputs are evaluated. -/
theorem xs32Stream : Obligations.Xs32Stream :=
  ⟨fun _ => rfl, fun _ => rfl, fun seed => afterDraws_xs32_ne_zero (xs32_init_ne_zero seed), by decide, by decide, by decide⟩

variable {σ : Type} {g : Prng σ} {L n : Nat} {rs : σ}

/-! One attempt (R103): the model swaps on the map from index to value, the rule on the sequence. -/

/-- `(p(i), p(j)) <- (p(j), p(i))` of R103, on the sequence. -/
def swapEntries (p : Perm) (i j : Nat) : Perm := (p.set i (permAt p j)).set j (permAt p i)

/-- Swap `t` of an attempt from `rs`, on the sequence: its indices are draws `2t` and `2t + 1` modulo `L`. -/
def drawnSwap (g : Prng σ) (L : Nat) (rs : σ) (p : Perm) (t : Nat) : Perm :=
  swapEntries p ((Spec.draw g (2 * t) rs).toNat % L) ((Spec.draw g (2 * t + 1) rs).toNat % L)

theorem map_swapAt (f : Nat → Nat) {i j : Nat} (hi : i < L) (hj : j < L) :
    (List.range L).map (swapAt f i j) = swapEntries ((List.range L).map f) i j := by
  have permAt_map {k : Nat} (hk : k < L) : permAt ((List.range L).map f) k = f k := by simp [permAt, hk]
  simp only [swapEntries, permAt_map hi, permAt_map hj]
  refine List.ext_getElem (by simp) fun k _ _ => ?_
  simp only [List.getElem_map, List.getElem_range, List.getElem_set, swapAt]
  grind

theorem map_swapLoop (hL : 0 < L) (f : Nat → Nat) :
    (List.range L).map (swapLoop g L n f rs).1 = (List.range n).foldl (drawnSwap g L rs) ((List.range L).map f) := by
  induction n generalizing f rs with
  | zero => rfl
  | succ n ih =>
    have hfirst : drawnSwap g L rs ((List.range L).map f) 0 = _ := (map_swapAt f (Nat.mod_lt _ hL) (Nat.mod_lt _ hL)).symm
    rw [List.range_succ_eq_map, List.foldl_cons, List.foldl_map, hfirst]
    exact ih _

theorem swapLoop_stream (f : Nat → Nat) : (swapLoop g L n f rs).2 = Spec.afterDraws g (2 * n) rs := by
  induction n generalizing f rs with
  | zero => rfl
  | succ n ih => exact ih _

/-- Settles O27: the map and the sequence make the same swaps, and each swap takes two draws. -/
theorem attemptIsSwapsOfSuccessiveDraws : Obligations.AttemptIsSwapsOfSuccessiveDraws := by
  intro σ g L n rs hL
  have hpos : 0 < L := by omega
  refine ⟨(map_swapLoop hpos _).trans ?_, swapLoop_stream _⟩
  rw [List.map_id']
  rfl

/-- The draws of `k` attempts. -/
theorem afterAttempts_eq_afterDraws (k : Nat) : Spec.afterAttempts g L n k rs = Spec.afterDraws g (2 * n * k) rs := by
  have hstep : (fun r => (attempt g L n r).2) = (fun r => (g.next r).2)^[2 * n] := funext fun _ => swapLoop_stream _
  rw [Spec.afterAttempts, hstep, ← Function.iterate_mul, Spec.afterDraws]

/-! One accepted permutation (R104). -/

section
variable (g L n rs)

/-- Attempt `a` from `rs` is the identity. -/
def Rejected (a : Nat) : Prop := (attempt g L n (Spec.afterAttempts g L n a rs)).1 = identity L

/-- Attempt `a` from `rs` is the first that is not the identity. -/
def FirstAccepted (a : Nat) : Prop := (∀ b, b < a → Rejected g L n rs b) ∧ ¬Rejected g L n rs a

/-- What `genPerm` answers when it accepts attempt `a`. -/
def acceptedAt (a : Nat) : Drawn σ Perm :=
  { value := (attempt g L n (Spec.afterAttempts g L n a rs)).1, attempts := a + 1,
    stream := Spec.afterAttempts g L n (a + 1) rs }

end

theorem FirstAccepted.unique {a b : Nat} (ha : FirstAccepted g L n rs a) (hb : FirstAccepted g L n rs b) : a = b := by
  obtain ⟨hbefore, hat⟩ := ha
  obtain ⟨hbefore', hat'⟩ := hb
  exact Nat.le_antisymm (Nat.not_lt.1 fun h => hat' (hbefore b h)) (Nat.not_lt.1 fun h => hat (hbefore' a h))

theorem genPerm_succ_of_identity {cap : Nat} (h : (attempt g L n rs).1 = identity L) : genPerm g L n (cap + 1) rs =
    (genPerm g L n cap (attempt g L n rs).2).map fun d => { d with attempts := d.attempts + 1 } := by
  simp only [genPerm, h, if_true]
  cases genPerm g L n cap (attempt g L n rs).2 <;> rfl

theorem genPerm_succ_of_ne {cap : Nat} (h : (attempt g L n rs).1 ≠ identity L) :
    genPerm g L n (cap + 1) rs = some (acceptedAt g L n rs 0) := by
  simp only [genPerm, h, if_false]
  rfl

/-- `genPerm` runs out of attempts, or it accepts the first one that is not the identity. -/
theorem genPerm_cases (cap : Nat) (rs : σ) :
    ((∀ b, b < cap → Rejected g L n rs b) ∧ genPerm g L n cap rs = none) ∨
    ∃ a, a < cap ∧ FirstAccepted g L n rs a ∧ genPerm g L n cap rs = some (acceptedAt g L n rs a) := by
  induction cap generalizing rs with
  | zero => exact .inl ⟨nofun, rfl⟩
  | succ cap ih =>
    by_cases h : (attempt g L n rs).1 = identity L
    · rw [genPerm_succ_of_identity h]
      obtain ⟨hall, hnone⟩ | ⟨a, ha, ⟨hbefore, hat⟩, hsome⟩ := ih (attempt g L n rs).2
      · exact .inl ⟨Nat.forall_lt_succ_left.2 ⟨h, hall⟩, by rw [hnone]; rfl⟩
      · exact .inr ⟨a + 1, Nat.succ_lt_succ ha, ⟨Nat.forall_lt_succ_left.2 ⟨h, hbefore⟩, hat⟩, by rw [hsome]; rfl⟩
    · exact .inr ⟨0, cap.succ_pos, ⟨nofun, h⟩, genPerm_succ_of_ne h⟩

theorem genPerm_eq_some_iff {cap : Nat} {d : Drawn σ Perm} : genPerm g L n cap rs = some d ↔
    ∃ a, a < cap ∧ FirstAccepted g L n rs a ∧ d = acceptedAt g L n rs a := by
  obtain ⟨hall, hnone⟩ | ⟨a, ha, hfirst, hsome⟩ := genPerm_cases (g := g) (L := L) (n := n) cap rs
  · exact iff_of_false (by simp [hnone]) fun ⟨a, ha, hfirst, _⟩ => hfirst.2 (hall a ha)
  · rw [hsome]
    constructor
    · exact fun h => ⟨a, ha, hfirst, (Option.some.inj h).symm⟩
    · rintro ⟨b, -, hb, rfl⟩
      rw [hfirst.unique hb]

theorem genPerm_eq_none_iff {cap : Nat} : genPerm g L n cap rs = none ↔ ∀ b, b < cap → Rejected g L n rs b := by
  obtain ⟨hall, hnone⟩ | ⟨a, ha, ⟨-, hat⟩, hsome⟩ := genPerm_cases (g := g) (L := L) (n := n) cap rs
  · exact iff_of_true hnone hall
  · exact iff_of_false (by simp [hsome]) fun hall => hat (hall a ha)

/-- Settles O28: there is at most one first attempt that is not the identity. -/
theorem firstNonIdentityAttemptAccepted : Obligations.FirstNonIdentityAttemptAccepted := fun _ _ _ _ _ =>
  ⟨fun _ => genPerm_eq_some_iff.trans <| by simp only [FirstAccepted, and_assoc]; rfl, genPerm_eq_none_iff⟩

end Sys2Proof.Machine
end

section
/-! PROOFS. The two pools from one stream: the stream state that each entry starts at, and the draws of a whole build
(R105, R109 (d), R110). -/

namespace Sys2Proof.Machine

variable {σ : Type} {g : Prng σ} {L n cap k : Nat} {rs : σ}

/-! A generation that fails (R105). -/

theorem genPool_succ_eq_none_cases (h : genPool g L n cap (k + 1) rs = none) :
    genPerm g L n cap rs = none ∨ ∃ e, genPerm g L n cap rs = some e ∧ genPool g L n cap k e.stream = none := by
  unfold genPool at h
  split at h
  next he => exact .inl he
  next e he =>
    split at h
    next hds => exact .inr ⟨e, he, hds⟩
    · cases h

theorem genPools_eq_none_cases {p : Params} {seed : Word} (h : genPools g p seed = none) :
    genPool g 32 p.swapCount p.maxAttempts p.n (g.init seed) = none ∨
    ∃ a, genPool g 32 p.swapCount p.maxAttempts p.n (g.init seed) = some a ∧
      genPool g 16 p.swapCount p.maxAttempts p.n a.stream = none := by
  unfold genPools at h
  split at h
  next ha => exact .inl ha
  next a ha =>
    split at h
    next hb => exact .inr ⟨a, ha, hb⟩
    · cases h

/-! The stream state of each entry (R105). -/

/-- Along `st`, each of the entries 0 to `k - 1` of domain `L` leaves the stream where the next entry starts. -/
def FollowsPool (g : Prng σ) (L n cap k : Nat) (st : Nat → σ) : Prop :=
  ∀ j, j < k → ∀ e, genPerm g L n cap (st j) = some e → st (j + 1) = e.stream

variable {st : Nat → σ}

theorem FollowsPool.tail (h : FollowsPool g L n cap (k + 1) st) : FollowsPool g L n cap k fun j => st (j + 1) :=
  fun j hj => h (j + 1) (Nat.succ_lt_succ hj)

theorem genPool_entries {d : Drawn σ (List Perm)} (hst : FollowsPool g L n cap k st)
    (h : genPool g L n cap k (st 0) = some d) :
    d.stream = st k ∧ ∀ j, j < k → ∃ e, genPerm g L n cap (st j) = some e ∧ d.value[j]? = some e.value := by
  induction k generalizing st d with
  | zero =>
    obtain rfl := Option.some.inj h
    exact ⟨rfl, nofun⟩
  | succ k ih =>
    obtain ⟨e, ds, he, hds, rfl⟩ := genPool_succ_cases h
    rw [← hst 0 k.succ_pos e he] at hds
    obtain ⟨hstream, hentries⟩ := ih hst.tail hds
    exact ⟨hstream, Nat.forall_lt_succ_left.2 ⟨⟨e, he, rfl⟩, hentries⟩⟩

theorem genPool_failing_entry (hst : FollowsPool g L n cap k st) (h : genPool g L n cap k (st 0) = none) :
    ∃ m, m < k ∧ (∀ j, j < m → ∃ e, genPerm g L n cap (st j) = some e) ∧ genPerm g L n cap (st m) = none := by
  induction k generalizing st with
  | zero => cases h
  | succ k ih =>
    obtain hnone | ⟨e, he, hds⟩ := genPool_succ_eq_none_cases h
    · exact ⟨0, k.succ_pos, nofun, hnone⟩
    · rw [← hst 0 k.succ_pos e he] at hds
      obtain ⟨m, hm, hbefore, hfail⟩ := ih hst.tail hds
      exact ⟨m + 1, Nat.succ_lt_succ hm, Nat.forall_lt_succ_left.2 ⟨⟨e, he⟩, hbefore⟩, hfail⟩

/-! The entries of a build in their order (R105). -/

section
variable (g) (p : Params) (seed : Word)

/-- The domain of entry `k` of a build: the structural entries come first. -/
def entrySize (k : Nat) : Nat := if k < p.n then 32 else 16

/-- The stream state at which entry `k` of a build is made; it stops changing at an entry that fails. -/
def buildStream : Nat → σ
  | 0 => g.init seed
  | k + 1 =>
    match genPerm g (entrySize p k) p.swapCount p.maxAttempts (buildStream k) with
    | none => buildStream k
    | some e => e.stream

end

variable {p : Params} {seed : Word}

theorem entrySize_structural (h : k < p.n) : entrySize p k = 32 := if_pos h

theorem entrySize_substitution (k : Nat) : entrySize p (p.n + k) = 16 := if_neg (by omega)

theorem buildStream_succ {e : Drawn σ Perm}
    (h : genPerm g (entrySize p k) p.swapCount p.maxAttempts (buildStream g p seed k) = some e) :
    buildStream g p seed (k + 1) = e.stream := by
  rw [buildStream, h]

theorem buildStream_follows_structural :
    FollowsPool g 32 p.swapCount p.maxAttempts p.n (buildStream g p seed) :=
  fun _ hj _ he => buildStream_succ (by rwa [entrySize_structural hj])

theorem buildStream_follows_substitution :
    FollowsPool g 16 p.swapCount p.maxAttempts p.n fun j => buildStream g p seed (p.n + j) :=
  fun j _ _ he => buildStream_succ (k := p.n + j) (by rwa [entrySize_substitution])

/-- The entries of a build, taken one pool after the other. -/
theorem forall_lt_add {N m : Nat} {P : Nat → Prop} (hfirst : ∀ k, k < N → P k) (hsecond : ∀ j, j < m → P (N + j)) :
    ∀ k, k < N + m → P k := by
  intro k hk
  obtain h | h := Nat.lt_or_ge k N
  · exact hfirst k h
  · obtain ⟨j, rfl⟩ := Nat.exists_eq_add_of_le h
    exact hsecond j (by omega)

theorem genPools_entries {d : Drawn σ Pools} (h : genPools g p seed = some d) :
    buildStream g p seed (p.n + p.n) = d.stream ∧
    ∀ k, k < p.n + p.n → ∃ e,
      genPerm g (entrySize p k) p.swapCount p.maxAttempts (buildStream g p seed k) = some e ∧
      (d.value.structural ++ d.value.substitution)[k]? = some e.value := by
  obtain ⟨a, b, ha, hb, rfl⟩ := genPools_cases h
  obtain ⟨hstreamA, hentriesA⟩ := genPool_entries buildStream_follows_structural ha
  rw [hstreamA] at hb
  obtain ⟨hstreamB, hentriesB⟩ := genPool_entries buildStream_follows_substitution hb
  obtain ⟨hlenA, -⟩ := genPool_sound (by decide) ha
  dsimp only
  refine ⟨hstreamB.symm, forall_lt_add (fun k hk => ?_) fun j hj => ?_⟩
  · rw [entrySize_structural hk, List.getElem?_append_left (by omega)]
    exact hentriesA k hk
  · rw [entrySize_substitution, ← hlenA, List.getElem?_append_right (by omega), Nat.add_sub_cancel_left, hlenA]
    exact hentriesB j hj

theorem genPools_failing_entry (h : genPools g p seed = none) : ∃ m, m < p.n + p.n ∧
    (∀ k, k < m → ∃ e, genPerm g (entrySize p k) p.swapCount p.maxAttempts (buildStream g p seed k) = some e) ∧
    genPerm g (entrySize p m) p.swapCount p.maxAttempts (buildStream g p seed m) = none := by
  obtain hnone | ⟨a, ha, hnone⟩ := genPools_eq_none_cases h
  · obtain ⟨m, hm, hbefore, hfail⟩ := genPool_failing_entry buildStream_follows_structural hnone
    refine ⟨m, by omega, fun k hk => ?_, ?_⟩
    · rw [entrySize_structural (by omega)]
      exact hbefore k hk
    · rwa [entrySize_structural hm]
  · obtain ⟨hstreamA, hentriesA⟩ := genPool_entries buildStream_follows_structural ha
    rw [hstreamA] at hnone
    obtain ⟨m, hm, hbefore, hfail⟩ := genPool_failing_entry buildStream_follows_substitution hnone
    refine ⟨p.n + m, by omega, forall_lt_add (fun k hk => ?_) fun j hj => ?_, ?_⟩
    · rw [entrySize_structural hk]
      exact (hentriesA k hk).imp fun _ => And.left
    · rw [entrySize_substitution]
      exact hbefore j hj
    · rwa [entrySize_substitution]

/-- Settles O29: the stream states are those at which the entries are made, one after the other. -/
theorem poolsFromOneStreamInOrder : Obligations.PoolsFromOneStreamInOrder := by
  intro σ g p seed
  rw [two_mul]
  refine ⟨fun d h => ?_, fun h => ?_⟩
  · obtain ⟨hstream, hentries⟩ := genPools_entries h
    obtain ⟨hlenA, hlenB, -⟩ := Pools.wf_iff.1 (genPools_wf h)
    refine ⟨buildStream g p seed, rfl, hstream, hlenA, hlenB, fun k hk => ?_⟩
    obtain ⟨e, he, hvalue⟩ := hentries k hk
    exact ⟨e, he, buildStream_succ he, hvalue⟩
  · obtain ⟨m, hm, hbefore, hfail⟩ := genPools_failing_entry h
    refine ⟨buildStream g p seed, m, rfl, hm, fun k hk => ?_, hfail⟩
    obtain ⟨e, he⟩ := hbefore k hk
    exact ⟨e, he, buildStream_succ he⟩

/-! The draws of a build (R109 (d), R110). -/

theorem afterDraws_add (j k : Nat) : Spec.afterDraws g (j + k) rs = Spec.afterDraws g k (Spec.afterDraws g j rs) := by
  rw [Nat.add_comm]
  exact Function.iterate_add_apply ..

/-- `d` was made from `rs` by at least `lo` and at most `hi` attempts of `n` swaps each, and every draw is one of theirs. -/
def MadeBetween (g : Prng σ) (n : Nat) (rs : σ) (lo hi : Nat) {α : Type} (d : Drawn σ α) : Prop :=
  d.stream = Spec.afterDraws g (2 * n * d.attempts) rs ∧ lo ≤ d.attempts ∧ d.attempts ≤ hi

theorem MadeBetween.append {α β γ : Type} {lo hi lo' hi' : Nat} {d : Drawn σ α} {d' : Drawn σ β} {v : γ}
    (h : MadeBetween g n rs lo hi d) (h' : MadeBetween g n d.stream lo' hi' d') :
    MadeBetween g n rs (lo + lo') (hi + hi')
      { value := v, attempts := d.attempts + d'.attempts, stream := d'.stream } := by
  obtain ⟨hstream, hlo, hhi⟩ := h
  obtain ⟨hstream', hlo', hhi'⟩ := h'
  refine ⟨?_, Nat.add_le_add hlo hlo', Nat.add_le_add hhi hhi'⟩
  rw [Nat.mul_add, afterDraws_add, ← hstream, hstream']

theorem genPerm_madeBetween {d : Drawn σ Perm} (h : genPerm g L n cap rs = some d) : MadeBetween g n rs 1 cap d := by
  obtain ⟨a, ha, -, rfl⟩ := genPerm_eq_some_iff.1 h
  exact ⟨afterAttempts_eq_afterDraws (a + 1), Nat.le_add_left 1 a, ha⟩

theorem genPool_madeBetween {d : Drawn σ (List Perm)} (h : genPool g L n cap k rs = some d) :
    MadeBetween g n rs k (k * cap) d := by
  induction k generalizing rs d with
  | zero =>
    obtain rfl := Option.some.inj h
    exact ⟨rfl, Nat.le_refl 0, Nat.zero_le _⟩
  | succ k ih =>
    obtain ⟨e, ds, he, hds, rfl⟩ := genPool_succ_cases h
    rw [Nat.succ_mul, Nat.add_comm k, Nat.add_comm (k * cap)]
    exact (genPerm_madeBetween he).append (ih hds)

theorem genPools_madeBetween {d : Drawn σ Pools} (h : genPools g p seed = some d) :
    MadeBetween g p.swapCount (g.init seed) (p.n + p.n) (p.n * p.maxAttempts + p.n * p.maxAttempts) d := by
  obtain ⟨a, b, ha, hb, rfl⟩ := genPools_cases h
  exact (genPool_madeBetween ha).append (genPool_madeBetween hb)

/-- Settles O31: draws and attempts add up from the entries to the pools, and an entry takes 1 to `MAX_ATTEMPTS` attempts. -/
theorem buildDrawCount : Obligations.BuildDrawCount := by
  intro σ g p seed d h
  obtain ⟨hstream, hlo, hhi⟩ := genPools_madeBetween h
  rw [← two_mul] at hlo hhi
  exact ⟨hstream, hlo, hhi.trans_eq (Nat.mul_assoc ..).symm⟩

end Sys2Proof.Machine
end

section
/-! PROOFS. The commands `BUILD`, `RDP` and `RDS` (R106 to R108). -/

namespace Sys2Proof.Machine

variable {s : State}

/-! `BUILD` (R106). -/

theorem execBuild_of_generated {p : Pools} (h : s.pools = none) (hg : generate s.params s.seed = some p) :
    exec .build s = .next (Spec.done { s with pools := some p }) := by
  rw [exec_eq_complete, runOf, runBuild_some h hg]
  rfl

theorem execBuild_of_not_generated (h : s.pools = none) (hg : generate s.params s.seed = none) :
    exec .build s = .next (Spec.failed s 7) := by
  rw [exec_eq_complete, runOf, runBuild_none h hg]
  rfl

/-- What `BUILD` does with a stream that `generate` chooses. -/
theorem execBuild_of_stream {σ : Type} {g : Prng σ} (h : s.pools = none)
    (hg : generate s.params s.seed = (genPools g s.params s.seed).map Drawn.value) :
    (∀ d, genPools g s.params s.seed = some d → exec .build s = .next (Spec.done { s with pools := some d.value })) ∧
    (genPools g s.params s.seed = none → exec .build s = .next (Spec.failed s 7)) :=
  ⟨fun _ hd => execBuild_of_generated h (by rw [hg, hd]; rfl),
    fun hnone => execBuild_of_not_generated h (by rw [hg, hnone]; rfl)⟩

/-- Settles O32: with no pools built, what `generate` answers decides, and the parameter `PRNG` decides its stream. -/
theorem buildCommand : Obligations.BuildCommand := by
  refine ⟨rfl, fun s => ⟨fun h => ?_, fun h hprng => ?_, fun k h hprng => ?_, fun p => execBuild_of_generated,
    execBuild_of_not_generated⟩⟩
  · rw [exec_eq_complete, runOf, runBuild_locked h]
    rfl
  · exact execBuild_of_stream h (generate_xs32 hprng s.seed)
  · exact execBuild_of_stream h (generate_platform hprng s.seed)

theorem generate_congr {p q : Params} (hn : p.n = q.n) (hswaps : p.swapCount = q.swapCount)
    (hattempts : p.maxAttempts = q.maxAttempts) (hprng : p.prng = q.prng) (seed : Word) : generate p seed = generate q seed := by
  simp only [generate, genPools, hn, hswaps, hattempts, hprng]

/-- Settles O33: both completions are decided by `generate`, which reads only these parameters and the seed. -/
theorem buildDependsOnlyOnSeedAndParameters : Obligations.BuildDependsOnlyOnSeedAndParameters := by
  intro s s' t t' h h' hseed hn hswaps hattempts hprng ht ht'
  have hgen : generate s'.params s'.seed = generate s.params s.seed := by
    rw [hseed, generate_congr hn hswaps hattempts hprng]
  cases hg : generate s.params s.seed with
  | none =>
    obtain rfl := Host.Outcome.next.inj ((execBuild_of_not_generated h hg).symm.trans ht)
    obtain rfl := Host.Outcome.next.inj ((execBuild_of_not_generated h' (hgen.trans hg)).symm.trans ht')
    exact ⟨h.trans h'.symm, rfl, rfl⟩
  | some p =>
    obtain rfl := Host.Outcome.next.inj ((execBuild_of_generated h hg).symm.trans ht)
    obtain rfl := Host.Outcome.next.inj ((execBuild_of_generated h' (hgen.trans hg)).symm.trans ht')
    exact ⟨rfl, rfl, rfl⟩

/-! A result in `PERM_OUT` (R32). -/

theorem resultEntry_eq_entry (s : State) (e : Nat) : Spec.resultEntry s e = (entry s.permOut e).toNat := by
  simp [Spec.resultEntry, entry, Nat.shiftRight_eq_div_pow]

theorem resultEntry_of_packPerm {q : Perm} {e : Nat} (h : s.permOut = packPerm q) (he : e < 32) (hq : permAt q e < 32) :
    Spec.resultEntry s e = permAt q e := by
  rw [resultEntry_eq_entry, h, entry_packPerm q he, BitVec.toNat_ofNat]
  omega

/-! Pool entries (R34). -/

theorem getD_mem {α : Type} {l : List α} {k : Nat} {a : α} (h : k < l.length) : l.getD k a ∈ l := by
  rw [List.getD_eq_getElem l a h]
  exact List.getElem_mem h

theorem State.Inv.pool_isBij {pl : Pools} {k : Nat} (hinv : s.Inv) (hpl : s.pools = some pl) (hk : k < s.params.n) :
    isBij 32 (pl.structural.getD k []) = true ∧ isBij 16 (pl.substitution.getD k []) = true := by
  obtain ⟨hlenP, hlenS, hallP, hallS⟩ := Pools.wf_iff.1 (hinv.pools_wf pl hpl)
  exact ⟨(hallP _ (getD_mem (hk.trans_eq hlenP.symm))).1, (hallS _ (getD_mem (hk.trans_eq hlenS.symm))).1⟩

/-! Reading out an entry (R107, R108). -/

/-- What `RDP` and `RDS` share: they differ in the pool and its domain. -/
def readEntry (L : Nat) (pool : Pools → List Perm) (k : Nat) (s : State) : Except ErrCode Writes := do
  let pl ← builtPools s
  checkIndex s k
  let q ← poolEntry L (pool pl) k
  pure (.permOut q)

theorem exec_rdp (p : Nat) (s : State) : exec (.rdp p) s = complete s (readEntry 32 Pools.structural p s) := rfl

theorem exec_rds (k : Nat) (s : State) : exec (.rds k) s = complete s (readEntry 16 Pools.substitution k s) := rfl

section
variable {L k : Nat} {pool : Pools → List Perm}

theorem readEntry_of_not_built (h : s.pools = none) : complete s (readEntry L pool k s) = .next (Spec.failed s 5) := by
  rw [readEntry, builtPools_none h]
  rfl

theorem readEntry_of_index_ge (h : s.pools ≠ none) (hk : s.params.n ≤ k) :
    complete s (readEntry L pool k s) = .next (Spec.failed s 2) := by
  obtain ⟨pl, hpl⟩ := Option.ne_none_iff_exists'.1 h
  rw [readEntry, builtPools_some hpl, checkIndex_ge hk]
  rfl

/-- The entry is copied, and the entries of `PERM_OUT` past its domain become 0. -/
theorem readEntry_of_index_lt {pl : Pools} (hL : L ≤ 32) (hpl : s.pools = some pl) (hk : k < s.params.n)
    (hbij : isBij L ((pool pl).getD k []) = true) :
    ∃ t, complete s (readEntry L pool k s) = .next t ∧ t = Spec.done { s with permOut := t.permOut } ∧
      (∀ e, e < 32 → Spec.resultEntry t e = permAt ((pool pl).getD k []) e) := by
  refine ⟨Spec.done { s with permOut := packPerm ((pool pl).getD k []) }, ?_, rfl, fun e he => ?_⟩
  · simp only [readEntry, builtPools_some hpl, checkIndex_lt hk, poolEntry_ok hbij, bind, Except.bind, pure, Except.pure]
    rfl
  · exact resultEntry_of_packPerm rfl he (isBij_permAt_lt_32 hL hbij e)

end

theorem encode_rdp_rds {k : Nat} (hk : k < 256) :
    encode (.rdp k) = BitVec.ofNat 32 k <<< 8 ||| 0x05 ∧ encode (.rds k) = BitVec.ofNat 32 k <<< 16 ||| 0x15 := by
  obtain ⟨-, hwords, -⟩ := assemblerEncodings
  obtain ⟨-, -, hrdp, hrds⟩ := hwords k k hk hk
  have hwf : indexOk k = true := decide_eq_true hk
  exact ⟨Option.some.inj ((assemble_of_wf (i := .rdp k) hwf).symm.trans hrdp),
    Option.some.inj ((assemble_of_wf (i := .rds k) hwf).symm.trans hrds)⟩

/-- Settles O34: `RDP` reads out a structural entry, which fills `PERM_OUT`. -/
theorem rdpCommand : Obligations.RdpCommand :=
  ⟨fun _ hp => (encode_rdp_rds hp).1, fun _ _ => ⟨readEntry_of_not_built, readEntry_of_index_ge,
    fun _ hinv hpl hp => readEntry_of_index_lt le_rfl hpl hp (hinv.pool_isBij hpl hp).1⟩⟩

/-- Settles O35: `RDS` reads out a substitution entry, whose domain ends at entry 15. -/
theorem rdsCommand : Obligations.RdsCommand := by
  refine ⟨fun _ hk => (encode_rdp_rds hk).2, fun s k => ⟨readEntry_of_not_built, readEntry_of_index_ge,
    fun pl hinv hpl hk => ?_⟩⟩
  have hbij := (hinv.pool_isBij hpl hk).2
  obtain ⟨hlen, -, -⟩ := (isBij_iff 16 _).1 hbij
  obtain ⟨t, ht, hframe, hentries⟩ := readEntry_of_index_lt (pool := Pools.substitution) (by decide) hpl hk hbij
  refine ⟨t, ht, hframe, fun e he => hentries e (by omega), fun e hge hlt => ?_⟩
  rw [hentries e hlt]
  exact permAt_eq_zero (hlen.trans_le hge)

end Sys2Proof.Machine
end

section
/-! PROOFS. The check on `PERM_IN`, the inverse and the commands `INV.P` and `INV.S` (R131 to R135). -/

namespace Sys2Proof.Machine

variable {L : Nat} {s : State} {p q : Perm}

/-! Permutations by their values (R9). -/

theorem isBij_iff_permAt : isBij L p = true ↔
    p.length = L ∧ (∀ i, i < L → permAt p i < L) ∧ ∀ i j, i < L → j < L → permAt p i = permAt p j → i = j := by
  refine ⟨fun h => ⟨((isBij_iff L p).1 h).1, fun _ => permAt_lt h, fun _ _ => permAt_injective h⟩, ?_⟩
  rintro ⟨rfl, hlt, hinj⟩
  have hat (i : Nat) (hi : i < p.length) : permAt p i = p[i] := List.getD_eq_getElem p 0 hi
  refine (isBij_iff _ p).2 ⟨rfl, fun v hv => ?_, List.nodup_iff_injective_get.2 fun i j hij => Fin.ext ?_⟩
  · obtain ⟨i, hi, rfl⟩ := List.getElem_of_mem hv
    exact hat i hi ▸ hlt i hi
  · exact hinj i j i.isLt j.isLt (by simpa [hat] using hij)

theorem perm_ext (hp : p.length = L) (hq : q.length = L) (h : ∀ i, i < L → permAt p i = permAt q i) : p = q := by
  refine List.ext_getElem (hp.trans hq.symm) fun i hi hi' => ?_
  rw [← List.getD_eq_getElem p 0 hi, ← List.getD_eq_getElem q 0 hi']
  exact h i (hp ▸ hi)

theorem permAt_range {i : Nat} (hi : i < L) : permAt (List.range L) i = i := by simp [permAt, hi]

theorem isBij_range (L : Nat) : isBij L (List.range L) = true :=
  (isBij_iff L _).2 ⟨List.length_range, fun _ => List.mem_range.1, List.nodup_range⟩

/-! The check on `PERM_IN` (R131). -/

theorem hostEntry_eq_permInEntry (s : State) (e : Nat) : Spec.hostEntry s e = permInEntry s e := by
  simp [Spec.hostEntry, permInEntry, entry, Nat.shiftRight_eq_div_pow]

theorem permInOk_iff_hostPermOk : permInOk L s = true ↔ Spec.hostPermOk L s := by
  simp only [permInOk_iff, Spec.hostPermOk, hostEntry_eq_permInEntry]

theorem permAt_permIn_eq_hostEntry {e : Nat} (he : e < L) : permAt (permIn L s) e = Spec.hostEntry s e := by
  rw [permAt_permIn s he, hostEntry_eq_permInEntry]

theorem permInOk_iff_isBij : permInOk L s = true ↔ isBij L (permIn L s) = true := by
  refine ⟨isBij_permIn, fun h => (permInOk_iff L s).2 ⟨fun e he => ?_, fun e e' he he' hne heq => hne ?_⟩⟩
  · exact permAt_permIn s he ▸ permAt_lt h he
  · exact permAt_injective h he he' (by rwa [permAt_permIn s he, permAt_permIn s he'])

/-- Entries 0..15 stand in words 0..3 (R31). -/
theorem permIn_16_congr {s' : State} (h : ∀ k, k < 4 → s'.permIn[k]? = s.permIn[k]?) : permIn 16 s' = permIn 16 s := by
  refine List.map_congr_left fun e he => ?_
  have hword : e / 4 < 4 := by
    have := List.mem_range.1 he
    omega
  simp only [permInEntry, entry, h _ hword]

/-- Settles O36: `permInOk` is R131's formula, and it depends on nothing but the examined entries. -/
theorem permInCheckIsBijectivity : Obligations.PermInCheckIsBijectivity := by
  intro L s _
  refine ⟨permInOk_iff_hostPermOk, permInOk_iff_isBij, fun h => ?_, fun s' h => ?_⟩
  · rw [permInOk_iff_isBij, h]
    exact isBij_range L
  · rw [Bool.eq_iff_iff, permInOk_iff_isBij, permInOk_iff_isBij, permIn_16_congr h]

/-! The laws of the inverse (R135). -/

theorem isBij_inverse (h : isBij L p = true) : isBij L (inverse L p) = true := by
  refine isBij_iff_permAt.2 ⟨inverse_length L p, fun _ => permAt_inverse_lt h, fun v w hv hw heq => ?_⟩
  rw [← permAt_inverse h hv, heq, permAt_inverse h hw]

theorem inverse_inverse (h : isBij L p = true) : inverse L (inverse L p) = p := by
  refine perm_ext (inverse_length L _) ((isBij_iff L p).1 h).1 fun i hi => ?_
  have hat := inverse_permAt (isBij_inverse h) (permAt_lt h hi)
  rwa [inverse_permAt h hi] at hat

theorem inverse_range (L : Nat) : inverse L (List.range L) = List.range L := by
  refine perm_ext (inverse_length L _) List.length_range fun i hi => ?_
  have hat := inverse_permAt (isBij_range L) hi
  rwa [permAt_range hi] at hat ⊢

theorem eq_range_of_inverse_eq_range (h : isBij L p = true) (hq : inverse L p = List.range L) : p = List.range L := by
  rw [← inverse_inverse h, hq, inverse_range]

/-- Two permutation layers cancel when reading through both positions gives the position back (R140). -/
theorem applyP_applyP_of_cancel (b : Word) (hq : ∀ i, i < 32 → permAt q i < 32)
    (h : ∀ i, i < 32 → permAt p (permAt q i) = i) : applyP (applyP b p) q = b :=
  word_ext_pos fun i hi => by rw [pos_applyP _ _ hi, pos_applyP _ _ (hq i hi), h i hi]

/-- Settles O39: `inverse` undoes `p` on both sides, and a permutation is determined by its values. -/
theorem inverseLaws : Obligations.InverseLaws :=
  ⟨fun L _ h => ⟨isBij_inverse h, inverse_inverse h, inverse_range L, eq_range_of_inverse_eq_range h⟩,
    fun _ b h => ⟨applyP_applyP_of_cancel b (fun _ => permAt_inverse_lt h) (fun _ => permAt_inverse h),
      applyP_applyP_of_cancel b (fun _ => permAt_lt h) (fun _ => inverse_permAt h)⟩⟩

/-! Inverting the host permutation (R133, R134). -/

/-- What `INV.P` and `INV.S` share: they differ in the domain. -/
def invertHostPerm (L : Nat) (s : State) : Except ErrCode Writes := do
  let p ← hostPerm L s
  pure (.permOut (inverse L p))

theorem exec_invP (s : State) : exec .invP s = complete s (invertHostPerm 32 s) := rfl

theorem exec_invS (s : State) : exec .invS s = complete s (invertHostPerm 16 s) := rfl

theorem invertHostPerm_of_not_hostPermOk (h : ¬Spec.hostPermOk L s) :
    complete s (invertHostPerm L s) = .next (Spec.failed s 3) := by
  have hbad : permInOk L s = false := Bool.eq_false_iff.2 fun hok => h (permInOk_iff_hostPermOk.1 hok)
  rw [invertHostPerm, hostPerm_bad hbad]
  rfl

/-- `PERM_OUT` holds the inverse, and its entries past the domain become 0. -/
theorem invertHostPerm_of_hostPermOk (hL : L ≤ 32) (h : Spec.hostPermOk L s) :
    ∃ t, complete s (invertHostPerm L s) = .next t ∧ t = Spec.done { s with permOut := t.permOut } ∧
      (∀ i, i < L → Spec.resultEntry t (Spec.hostEntry s i) = i) ∧
      (∀ e, L ≤ e → e < 32 → Spec.resultEntry t e = 0) := by
  have hok : permInOk L s = true := permInOk_iff_hostPermOk.2 h
  have hbij := isBij_permIn hok
  have hread (t : State) (ht : t.permOut = packPerm (inverse L (permIn L s))) (e : Nat) (he : e < 32) :
      Spec.resultEntry t e = permAt (inverse L (permIn L s)) e :=
    resultEntry_of_packPerm ht he (inverse_permAt_lt_32 hL hbij e)
  refine ⟨Spec.done { s with permOut := packPerm (inverse L (permIn L s)) }, ?_, rfl, fun i hi => ?_, fun e hge hlt => ?_⟩
  · rw [invertHostPerm, hostPerm_ok hok]
    rfl
  · rw [hread _ rfl _ ((h.1 i hi).trans_le hL), ← permAt_permIn_eq_hostEntry hi, inverse_permAt hbij hi]
  · rw [hread _ rfl e hlt, permAt_eq_zero ((inverse_length L _).trans_le hge)]

/-- Settles O37: `INV.P` inverts in the domain that fills `PERM_OUT`. -/
theorem invPCommand : Obligations.InvPCommand := by
  refine ⟨rfl, fun s => ⟨invertHostPerm_of_not_hostPermOk, fun h => ?_⟩⟩
  obtain ⟨t, ht, hframe, hinv, -⟩ := invertHostPerm_of_hostPermOk le_rfl h
  exact ⟨t, ht, hframe, hinv⟩

/-- Settles O38: `INV.S` inverts in the domain that ends at entry 15. -/
theorem invSCommand : Obligations.InvSCommand :=
  ⟨rfl, fun _ => ⟨invertHostPerm_of_not_hostPermOk, invertHostPerm_of_hostPermOk (by decide)⟩⟩

end Sys2Proof.Machine
end

section
/-! PROOFS. The two layers and the two pipelines (R140 to R146). -/

namespace Sys2Proof.Machine

variable {p s : Perm} {f : Nat → Nat} {L g i : Nat}

/-! The permutation layer (R140, R141). -/

theorem permAt_map_range (hi : i < L) : permAt ((List.range L).map f) i = f i := by simp [permAt, hi]

theorem pos_applyP_map (b : Word) (f : Nat → Nat) (hi : i < 32) : pos (applyP b ((List.range 32).map f)) i = pos b (f i) := by
  rw [pos_applyP _ _ hi, permAt_map_range hi]

theorem applyP_range (b : Word) : applyP b (List.range 32) = b :=
  word_ext_pos fun i hi => by rw [pos_applyP _ _ hi, permAt_range hi]

theorem applyP_zero (p : Perm) : applyP 0 p = 0 :=
  word_ext_pos fun i hi => by rw [pos_applyP _ _ hi]; simp [pos]

theorem applyP_allOnes (p : Perm) : applyP (BitVec.allOnes 32) p = BitVec.allOnes 32 :=
  word_ext_pos fun i hi => by
    rw [pos_applyP _ _ hi]
    simp only [pos, BitVec.getLsbD_allOnes, decide_eq_decide]
    omega

theorem applyP_rotation (b : Word) : applyP b ((List.range 32).map fun i => (i + 1) % 32) = b.rotateLeft 1 := by
  refine word_ext_pos fun i hi => (pos_applyP_map b _ hi).trans ?_
  simp only [pos, BitVec.getLsbD_rotateLeft]
  by_cases hlast : i = 31
  · subst hlast
    rfl
  · have hbit : 31 - (i + 1) % 32 = 31 - i - 1 := by omega
    have hnot : ¬31 - i < 1 := by omega
    have hlt : 31 - i < 32 := by omega
    simp [hbit, hnot, hlt]

theorem applyP_reversal (b : Word) : applyP b ((List.range 32).map fun i => 31 - i) = b.reverse := by
  refine word_ext_pos fun i hi => (pos_applyP_map b _ hi).trans ?_
  have hlt : 31 - i < 32 := by omega
  simp only [pos, BitVec.getLsbD_reverse, BitVec.getMsbD]
  simp [hlt]

/-- A bijection lists the values of its domain in some order (R9). -/
theorem perm_range_of_isBij (h : isBij L p = true) : p.Perm (List.range L) := by
  obtain ⟨hlen, hlt, hnodup⟩ := (isBij_iff L p).1 h
  refine (hnodup.subperm fun v hv => List.mem_range.2 (hlt v hv)).perm_of_length_le ?_
  rw [List.length_range, hlen]

theorem map_permAt_range (h : p.length = L) : (List.range L).map (permAt p) = p :=
  perm_ext (by simp) h fun _ => permAt_map_range

/-- Counting the set bits of a block, or its set positions, is the same (R7). -/
theorem countP_getLsbD_eq_countP_pos (b : Word) : (List.range 32).countP b.getLsbD = (List.range 32).countP (pos b) := by
  have hreverse : (List.range 32).map (fun i => 31 - i) = (List.range 32).reverse := by decide
  calc (List.range 32).countP b.getLsbD
      = ((List.range 32).map fun i => 31 - i).countP b.getLsbD := by rw [hreverse, List.countP_reverse]
    _ = (List.range 32).countP (pos b) := List.countP_map

theorem countP_pos_applyP (b : Word) (h : isBij 32 p = true) :
    (List.range 32).countP (pos (applyP b p)) = (List.range 32).countP (pos b) := by
  have hlen := ((isBij_iff 32 p).1 h).1
  calc (List.range 32).countP (pos (applyP b p))
      = (List.range 32).countP (pos b ∘ permAt p) :=
        List.countP_congr fun i hi => by rw [pos_applyP _ _ (List.mem_range.1 hi), Function.comp_apply]
    _ = ((List.range 32).map (permAt p)).countP (pos b) := List.countP_map.symm
    _ = p.countP (pos b) := by rw [map_permAt_range hlen]
    _ = (List.range 32).countP (pos b) := (perm_range_of_isBij h).countP_eq _

/-- Settles O40: each corner case holds position by position, and a bijection only reorders the positions that are counted. -/
theorem permutationLayerCornerCases : Obligations.PermutationLayerCornerCases := by
  refine ⟨applyP_range, fun p _ => ⟨applyP_zero p, applyP_allOnes p⟩, fun b p h => ?_, applyP_rotation, applyP_reversal, ?_, ?_⟩
  · rw [countP_getLsbD_eq_countP_pos, countP_getLsbD_eq_countP_pos, countP_pos_applyP b h]
  · rw [applyP_rotation]
    decide
  · rw [applyP_reversal]
    decide +kernel

/-! The substitution layer (R142, R143). -/

theorem toNat_grp (b : Word) (hg : g < 8) : (grp b g).toNat = b.toNat / 16 ^ (7 - g) % 16 := by
  have hshift : 2 ^ (28 - 4 * g) = 16 ^ (7 - g) := by
    rw [show 28 - 4 * g = 4 * (7 - g) by omega, pow_mul]
    rfl
  rw [grp, BitVec.extractLsb'_toNat, Nat.shiftRight_eq_div_pow, hshift]

theorem toNat_grp_subst (b : Word) (h : isBij 16 s = true) (hg : g < 8) :
    (grp (subst b s) g).toNat = permAt s (grp b g).toNat := by
  rw [grp_subst b s hg, BitVec.toNat_ofNat, Nat.mod_eq_of_lt (permAt_lt h (grp b g).isLt)]

/-- Two substitution layers cancel when their maps do (R142). -/
theorem subst_subst_of_cancel {r : Perm} (b : Word) (hr : isBij 16 r = true) (hs : isBij 16 s = true)
    (h : ∀ v, v < 16 → permAt s (permAt r v) = v) : subst (subst b r) s = b :=
  word_ext_grp fun g hg => BitVec.eq_of_toNat_eq <| by
    rw [toNat_grp_subst _ hs hg, toNat_grp_subst _ hr hg, h _ (grp b g).isLt]

theorem invSubst_subst (b : Word) (h : isBij 16 s = true) : invSubst (subst b s) s = b :=
  subst_subst_of_cancel b h (isBij_inverse h) fun _ => inverse_permAt h

theorem subst_invSubst (b : Word) (h : isBij 16 s = true) : subst (invSubst b s) s = b :=
  subst_subst_of_cancel b (isBij_inverse h) h fun _ => permAt_inverse h

/-! The pipelines (R144 to R146). -/

/-- Settles O41: each layer of one pipeline meets its inverse in the other, from the inside out. -/
theorem encryptDecryptRoundTrip : Obligations.EncryptDecryptRoundTrip := by
  intro b p s hp hs
  obtain ⟨-, hlayer⟩ := inverseLaws
  have hundo (b : Word) : applyP (applyP b p) (inverse 32 p) = b := (hlayer p b hp).1
  have hredo (b : Word) : applyP (applyP b (inverse 32 p)) p = b := (hlayer p b hp).2
  constructor
  · simp only [encrypt, decrypt, hundo, invSubst_subst _ hs]
  · simp only [encrypt, decrypt, hredo, subst_invSubst _ hs]

end Sys2Proof.Machine
end

section
/-! PROOFS. The commands `ENC`, `DEC`, `PAPPLY` and `SAPPLY` (R148, R150 to R153). -/

namespace Sys2Proof.Machine

variable {s t : State} {p q : Nat} {P S : Perm} {g i : Nat}

/-! The layers as the statements read them: by bits and by groups (R7, R8). -/

theorem pos_applyP_inverse (b : Word) (h : isBij 32 P = true) (hi : i < 32) :
    pos (applyP b (inverse 32 P)) (permAt P i) = pos b i := by
  rw [pos_applyP _ _ (permAt_lt h hi), inverse_permAt h hi]

theorem group_subst (b : Word) (h : isBij 16 S = true) (hg : g < 8) :
    (subst b S).toNat / 16 ^ (7 - g) % 16 = permAt S (b.toNat / 16 ^ (7 - g) % 16) := by
  rw [← toNat_grp _ hg, ← toNat_grp _ hg, toNat_grp_subst b h hg]

theorem permAt_group_invSubst (b : Word) (h : isBij 16 S = true) (hg : g < 8) :
    permAt S ((invSubst b S).toNat / 16 ^ (7 - g) % 16) = b.toNat / 16 ^ (7 - g) % 16 := by
  rw [← group_subst _ h hg, subst_invSubst b h]

/-! A command whose result is a block. -/

section
variable {α : Type} {x : Except ErrCode α} {f : α → Word}

/-- What the four commands share: they differ in the operand they read or check, and in the block they make of it. -/
def blockResult (x : Except ErrCode α) (f : α → Word) : Except ErrCode Writes := do
  let a ← x
  pure (.blockOut (f a))

theorem complete_blockResult_of_ok {a : α} (h : x = .ok a) :
    complete s (blockResult x f) = .next (Spec.done { s with blockOut := f a }) := by
  rw [h]
  rfl

theorem complete_blockResult_of_error {e : ErrCode} (h : x = .error e) :
    complete s (blockResult x f) = .next (Spec.failed s e.code) := by
  rw [h]
  rfl

theorem complete_blockResult_success (h : complete s (blockResult x f) = .next t) (herr : t.err = false) :
    ∃ a, x = .ok a ∧ t.blockOut = f a := by
  obtain ⟨w, hw, rfl⟩ | ⟨e, -, rfl⟩ := complete_cases h
  · obtain ⟨a, ha, hout⟩ := bind_eq_ok hw
    obtain rfl := Except.ok.inj hout
    exact ⟨a, ha, rfl⟩
  · cases herr

end

theorem exec_enc (p q : Nat) (s : State) :
    exec (.enc p q) s = complete s (blockResult (poolKey s p q) fun key => encrypt s.blockIn key.1 key.2) := rfl

theorem exec_dec (p q : Nat) (s : State) :
    exec (.dec p q) s = complete s (blockResult (poolKey s p q) fun key => decrypt s.blockIn key.1 key.2) := rfl

theorem exec_papply (s : State) : exec .papply s = complete s (blockResult (hostPerm 32 s) (applyP s.blockIn)) := rfl

theorem exec_sapply (s : State) : exec .sapply s = complete s (blockResult (hostPerm 16 s) (subst s.blockIn)) := rfl

/-! The pool key (R184). -/

theorem poolKey_of_not_built (h : s.pools = none) : poolKey s p q = .error .poolNotBuilt := by
  rw [poolKey, builtPools_none h]
  rfl

theorem poolKey_of_index_ge (h : s.pools ≠ none) (hk : s.params.n ≤ p ∨ s.params.n ≤ q) :
    poolKey s p q = .error .poolIndexOutOfRange := by
  obtain ⟨pl, hpl⟩ := Option.ne_none_iff_exists'.1 h
  by_cases hp : s.params.n ≤ p
  · rw [poolKey, builtPools_some hpl, checkIndex_ge hp]
    rfl
  · rw [poolKey, builtPools_some hpl, checkIndex_lt (Nat.lt_of_not_le hp), checkIndex_ge (hk.resolve_left hp)]
    rfl

/-- The pool key is read from the pools, and its indices are checked against `N`. -/
theorem poolKey_congr (hparams : t.params = s.params) (hpools : t.pools = s.pools) : poolKey t p q = poolKey s p q := by
  simp only [poolKey, builtPools, checkIndex, hparams, hpools]

theorem State.Inv.poolKey_ok {pl : Pools} (hinv : s.Inv) (hpl : s.pools = some pl) (hp : p < s.params.n)
    (hq : q < s.params.n) : poolKey s p q = .ok (pl.structural.getD p [], pl.substitution.getD q []) :=
  Machine.poolKey_ok hpl hp hq (hinv.pool_isBij hpl hp).1 (hinv.pool_isBij hpl hq).2

theorem poolKey_eq_ok {pl : Pools} {key : Perm × Perm} (hpl : s.pools = some pl) (h : poolKey s p q = .ok key) :
    key = (pl.structural.getD p [], pl.substitution.getD q []) := by
  obtain ⟨pl', hpl', h⟩ := bind_eq_ok h
  obtain rfl := Except.ok.inj ((builtPools_some hpl).symm.trans hpl')
  obtain ⟨-, -, h⟩ := bind_eq_ok h
  obtain ⟨-, -, h⟩ := bind_eq_ok h
  obtain ⟨pp, hpp, h⟩ := bind_eq_ok h
  obtain ⟨sp, hsp, h⟩ := bind_eq_ok h
  obtain rfl := Except.ok.inj h
  rw [(poolEntry_eq_ok hpp).1, (poolEntry_eq_ok hsp).1]

/-! `ENC` and `DEC` (R150, R151). -/

theorem exec_enc_of_key (h : poolKey s p q = .ok (P, S)) :
    exec (.enc p q) s = .next (Spec.done { s with blockOut := encrypt s.blockIn P S }) := by
  rw [exec_enc, complete_blockResult_of_ok h]

theorem exec_dec_of_key (h : poolKey s p q = .ok (P, S)) :
    exec (.dec p q) s = .next (Spec.done { s with blockOut := decrypt s.blockIn P S }) := by
  rw [exec_dec, complete_blockResult_of_ok h]

/-- Settles O42: the pool key decides, and each stage of `encrypt` reads as its layer. -/
theorem encCommand : Obligations.EncCommand := by
  refine ⟨fun _ _ hp hq => formatC_eq_or 0x2 0 hp hq, fun s p q => ⟨fun h => ?_, fun h hk => ?_, fun pl hinv hpl hp hq => ?_⟩⟩
  · exact complete_blockResult_of_error (poolKey_of_not_built h)
  · exact complete_blockResult_of_error (poolKey_of_index_ge h hk)
  · have hS := (hinv.pool_isBij hpl hq).2
    exact ⟨_, _, _, exec_enc_of_key (hinv.poolKey_ok hpl hp hq), rfl,
      fun _ => pos_applyP _ _, fun _ => group_subst _ hS, fun _ => pos_applyP _ _⟩

/-- Settles O43: the pool key decides as for `ENC`, and each stage of `decrypt` reads as the undoing of a layer. -/
theorem decCommand : Obligations.DecCommand := by
  refine ⟨fun _ _ hp hq => formatC_eq_or 0x3 0 hp hq, fun s p q => ⟨fun h => ?_, fun h hk => ?_, fun pl hinv hpl hp hq => ?_⟩⟩
  · exact complete_blockResult_of_error (poolKey_of_not_built h)
  · exact complete_blockResult_of_error (poolKey_of_index_ge h hk)
  · have hP := (hinv.pool_isBij hpl hp).1
    have hS := (hinv.pool_isBij hpl hq).2
    exact ⟨_, _, _, exec_dec_of_key (hinv.poolKey_ok hpl hp hq), rfl,
      fun _ => pos_applyP_inverse _ hP, fun _ => permAt_group_invSubst _ hS, fun _ => pos_applyP_inverse _ hP⟩

/-- Settles O46: the first command leaves the pools and `N`, so the second has the same key, and the pipelines undo each other. -/
theorem encThenDecRestoresBlock : Obligations.EncThenDecRestoresBlock := by
  intro s p q hinv hbuilt hp hq
  obtain ⟨pl, hpl⟩ := Option.ne_none_iff_exists'.1 hbuilt
  have hkey := hinv.poolKey_ok hpl hp hq
  obtain ⟨hdecEnc, hencDec⟩ :=
    encryptDecryptRoundTrip s.blockIn _ _ (hinv.pool_isBij hpl hp).1 (hinv.pool_isBij hpl hq).2
  have hkeyAfter (b : Word) :=
    (poolKey_congr (t := { Spec.done { s with blockOut := b } with blockIn := b }) rfl rfl).trans hkey
  exact ⟨⟨_, _, exec_enc_of_key hkey, exec_dec_of_key (hkeyAfter _), rfl, hdecEnc⟩,
    ⟨_, _, exec_dec_of_key hkey, exec_enc_of_key (hkeyAfter _), rfl, hencDec⟩⟩

/-- A cipher command that succeeds writes the cipher of `BLOCK_IN` under the two entries its indices select. -/
theorem blockOut_of_cipher {pl : Pools} {cipher : Word → Perm → Perm → Word} (hpl : s.pools = some pl)
    (h : complete s (blockResult (poolKey s p q) fun key => cipher s.blockIn key.1 key.2) = .next t) (herr : t.err = false) :
    t.blockOut = cipher s.blockIn (pl.structural.getD p []) (pl.substitution.getD q []) := by
  obtain ⟨key, hkey, hout⟩ := complete_blockResult_success h herr
  rw [hout, poolKey_eq_ok hpl hkey]

/-- Settles O47: both results are the same cipher of the same block under the same entries. -/
theorem cipherDependsOnlyOnBlockAndKey : Obligations.CipherDependsOnlyOnBlockAndKey := by
  intro s s' t t' pl pl' p q p' q' hpl hpl' hblock hP hS
  refine ⟨fun h h' herr herr' => ?_, fun h h' herr herr' => ?_⟩
  · rw [exec_enc] at h h'
    rw [blockOut_of_cipher hpl h herr, blockOut_of_cipher hpl' h' herr', hblock, hP, hS]
  · rw [exec_dec] at h h'
    rw [blockOut_of_cipher hpl h herr, blockOut_of_cipher hpl' h' herr', hblock, hP, hS]

/-! `PAPPLY` and `SAPPLY` (R152, R153). -/

theorem hostPerm_of_not_hostPermOk {L : Nat} (h : ¬Spec.hostPermOk L s) : hostPerm L s = .error .nonBijectivePermutation :=
  hostPerm_bad (Bool.eq_false_iff.2 fun hok => h (permInOk_iff_hostPermOk.1 hok))

theorem hostPerm_of_hostPermOk {L : Nat} (h : Spec.hostPermOk L s) : hostPerm L s = .ok (permIn L s) :=
  hostPerm_ok (permInOk_iff_hostPermOk.2 h)

/-- Settles O44: the check on `PERM_IN` decides, and the layer reads position `p(i)` for `i`. -/
theorem papplyCommand : Obligations.PapplyCommand := by
  refine ⟨rfl, fun s => ⟨fun h => ?_, fun h => ?_⟩⟩
  · exact complete_blockResult_of_error (hostPerm_of_not_hostPermOk h)
  · refine ⟨_, complete_blockResult_of_ok (hostPerm_of_hostPermOk h), rfl, fun i hi => ?_⟩
    rw [← permAt_permIn_eq_hostEntry hi]
    exact pos_applyP _ _ hi

/-- Settles O45: the check on entries 0..15 decides, and each group takes its value in the table. -/
theorem sapplyCommand : Obligations.SapplyCommand := by
  refine ⟨rfl, fun s => ⟨fun h => ?_, fun h => ?_⟩⟩
  · exact complete_blockResult_of_error (hostPerm_of_not_hostPermOk h)
  · have hbij := isBij_permIn (permInOk_iff_hostPermOk.2 h)
    refine ⟨_, complete_blockResult_of_ok (hostPerm_of_hostPermOk h), rfl, fun g hg => ?_⟩
    rw [← permAt_permIn_eq_hostEntry (Nat.mod_lt _ (by decide))]
    exact group_subst _ hbij hg

end Sys2Proof.Machine
end

section
/-! PROOFS. Errors: what a failed command leaves (R183, R185, R187), and which codes a command raises (R184). -/

namespace Sys2Proof.Machine

variable {s t u : State} {i : Instr} {c : BitVec 4}

/-! A failed completion (R185). -/

/-- A command that sets `ERR` raised an error, and its answer is the completion with that error. -/
theorem exec_error_of_err (h : exec i s = .next t) (herr : t.err = true) : ∃ e, runOf i s = .error e ∧ t = s.finishErr e := by
  obtain ⟨w, -, rfl⟩ | hfailed := complete_cases (exec_eq_complete i s ▸ h)
  · cases herr
  · exact hfailed

/-- Settles O48: the answer is the completion with the error that the command raised. -/
theorem failedCommandWritesNothing : Obligations.FailedCommandWritesNothing := by
  intro i s t h herr
  obtain ⟨e, -, rfl⟩ := exec_error_of_err h herr
  rfl

/-! Issuing a failed command again (R187). -/

/-- No command looks at the command word, the completion fields, `WDROP`, the results or the model's own fields. -/
theorem runOf_frame (i : Instr) (s : State) {cmd blockOut : Word} {busy done err wdrop : Bool} {permOut : Vector Word 8}
    {inputs : List Input} {reply : Option Reply} :
    runOf i { s with cmd := cmd, busy := busy, done := done, err := err, errcode := c, wdrop := wdrop, blockOut := blockOut,
                     permOut := permOut, inputs := inputs, reply := reply } = runOf i s := by
  cases i <;> rfl

/-- Settles O51: neither the failure nor the accepted word touches what the command looks at, so it raises its error again. -/
theorem errorsAreDeterministic : Obligations.ErrorsAreDeterministic := by
  intro i s t v h herr
  obtain ⟨e, he, rfl⟩ := exec_error_of_err h herr
  have hagain : runOf i ((s.finishErr e).accept v) = .error e := (runOf_frame i s).trans he
  refine ⟨((s.finishErr e).accept v).finishErr e, ?_, rfl, rfl⟩
  rw [exec_eq_complete, hagain, complete_error]

/-! The codes of a command (R184). -/

/-- The command completes on `s` with success, or with a code that R184 lets it raise. -/
def RaisesOnlyItsCodes (i : Instr) (s : State) : Prop :=
  ∃ t, exec i s = .next t ∧ (t.err = false ∧ t.errcode = 0 ∨ t.err = true ∧ t.errcode ∈ Spec.mayRaise i)

theorem RaisesOnlyItsCodes.of_done (h : exec i s = .next t) (ht : t = Spec.done u) : RaisesOnlyItsCodes i s :=
  ⟨t, h, .inl (ht ▸ ⟨rfl, rfl⟩)⟩

theorem RaisesOnlyItsCodes.of_failed (h : exec i s = .next (Spec.failed s c)) (hc : c ∈ Spec.mayRaise i) :
    RaisesOnlyItsCodes i s :=
  ⟨_, h, .inr ⟨rfl, hc⟩⟩

theorem build_raisesOnlyItsCodes (s : State) : RaisesOnlyItsCodes .build s := by
  by_cases hbuilt : s.pools = none
  · cases hg : generate s.params s.seed with
    | some p => exact .of_done (execBuild_of_generated hbuilt hg) rfl
    | none => exact .of_failed (execBuild_of_not_generated hbuilt hg) (by decide)
  · obtain ⟨-, hbuild⟩ := buildCommand
    exact .of_failed ((hbuild s).1 hbuilt) (by decide)

/-- The commands that use pool entries: the pools must be built and the indices below `N`, and nothing else can fail. -/
theorem poolCommand_raisesOnlyItsCodes {indexBad : Prop} (hcodes : Spec.mayRaise i = [5, 2])
    (hnone : s.pools = none → exec i s = .next (Spec.failed s 5))
    (hindex : s.pools ≠ none → indexBad → exec i s = .next (Spec.failed s 2))
    (hgood : ∀ pl, s.pools = some pl → ¬indexBad → RaisesOnlyItsCodes i s) : RaisesOnlyItsCodes i s := by
  by_cases hbuilt : s.pools = none
  · exact .of_failed (hnone hbuilt) (by simp [hcodes])
  · by_cases hbad : indexBad
    · exact .of_failed (hindex hbuilt hbad) (by simp [hcodes])
    · obtain ⟨pl, hpl⟩ := Option.ne_none_iff_exists'.1 hbuilt
      exact hgood pl hpl hbad

/-- `ENC` and `DEC`: under the invariant the two entries of good indices are bijections. -/
theorem cipherCommand_raisesOnlyItsCodes {p q : Nat} {cipher : Perm × Perm → Word} (hinv : s.Inv)
    (hcodes : Spec.mayRaise i = [5, 2]) (hexec : exec i s = complete s (blockResult (poolKey s p q) cipher)) :
    RaisesOnlyItsCodes i s := by
  refine poolCommand_raisesOnlyItsCodes (indexBad := s.params.n ≤ p ∨ s.params.n ≤ q) hcodes
    (fun hnone => ?_) (fun hbuilt hbad => ?_) (fun pl hpl hgood => ?_)
  · exact hexec.trans (complete_blockResult_of_error (poolKey_of_not_built hnone))
  · exact hexec.trans (complete_blockResult_of_error (poolKey_of_index_ge hbuilt hbad))
  · have hkey := hinv.poolKey_ok (p := p) (q := q) hpl (by omega) (by omega)
    exact .of_done (hexec.trans (complete_blockResult_of_ok hkey)) rfl

/-- `RDP` and `RDS`, in a state whose entries at good indices are bijections. -/
theorem readCommand_raisesOnlyItsCodes {L k : Nat} {pool : Pools → List Perm} (hL : L ≤ 32)
    (hbij : ∀ pl, s.pools = some pl → k < s.params.n → isBij L ((pool pl).getD k []) = true)
    (hcodes : Spec.mayRaise i = [5, 2]) (hexec : exec i s = complete s (readEntry L pool k s)) :
    RaisesOnlyItsCodes i s := by
  refine poolCommand_raisesOnlyItsCodes (indexBad := s.params.n ≤ k) hcodes
    (fun hnone => ?_) (fun hbuilt hbad => ?_) (fun pl hpl hgood => ?_)
  · exact hexec.trans (readEntry_of_not_built hnone)
  · exact hexec.trans (readEntry_of_index_ge hbuilt hbad)
  · have hk := Nat.lt_of_not_le hgood
    obtain ⟨t, ht, hframe, -⟩ := readEntry_of_index_lt hL hpl hk (hbij pl hpl hk)
    exact .of_done (hexec.trans ht) hframe

/-- The commands that use the host permutation: it must be a bijection, and nothing else can fail. -/
theorem hostPermCommand_raisesOnlyItsCodes {L : Nat} {result : State → State} {P : State → Prop}
    (hcode : Spec.mayRaise i = [3])
    (hspec : (¬Spec.hostPermOk L s → exec i s = .next (Spec.failed s 3)) ∧
      (Spec.hostPermOk L s → ∃ t, exec i s = .next t ∧ t = Spec.done (result t) ∧ P t)) : RaisesOnlyItsCodes i s := by
  obtain ⟨hbad, hgood⟩ := hspec
  by_cases hok : Spec.hostPermOk L s
  · obtain ⟨t, ht, hframe, -⟩ := hgood hok
    exact .of_done ht hframe
  · exact .of_failed (hbad hok) (by simp [hcode])

/-- Settles O50, command by command, from what the shared operations answer. -/
theorem errorCodesPerCommand : Obligations.ErrorCodesPerCommand := by
  intro i s hinv
  cases i with
  | build => exact build_raisesOnlyItsCodes s
  | enc p q => exact cipherCommand_raisesOnlyItsCodes hinv rfl (exec_enc p q s)
  | dec p q => exact cipherCommand_raisesOnlyItsCodes hinv rfl (exec_dec p q s)
  | rdp p => exact readCommand_raisesOnlyItsCodes le_rfl (fun _ hpl hp => (hinv.pool_isBij hpl hp).1) rfl (exec_rdp p s)
  | rds k => exact readCommand_raisesOnlyItsCodes (by decide) (fun _ hpl hk => (hinv.pool_isBij hpl hk).2) rfl (exec_rds k s)
  | invP => exact hostPermCommand_raisesOnlyItsCodes rfl (invPCommand.2 s)
  | invS => exact hostPermCommand_raisesOnlyItsCodes rfl (invSCommand.2 s)
  | papply => exact hostPermCommand_raisesOnlyItsCodes rfl (papplyCommand.2 s)
  | sapply => exact hostPermCommand_raisesOnlyItsCodes rfl (sapplyCommand.2 s)

end Sys2Proof.Machine
end

section
/-! PROOFS. The values after reset (R210, R211). -/

namespace Sys2Proof.Machine

theorem statusWord_resetWith (p : Params) (l : List Input) : (State.resetWith p l).statusWord = 0 := by
  simp [State.statusWord, State.poolValid, State.resetWith]

theorem permIn_getElem_resetWith (p : Params) (l : List Input) (k : Fin 8) : (State.resetWith p l).permIn[k] = 0 :=
  Vector.getElem_replicate k.isLt

theorem permOut_getElem_resetWith (p : Params) (l : List Input) (k : Fin 8) : (State.resetWith p l).permOut[k] = 0 :=
  Vector.getElem_replicate k.isLt

/-- Settles O18: a reset event answers `resetBlock` whatever the block does, and `State.reset` is the same record of reset values at
the default parameters, whose `INFO` word O15 gives. -/
theorem resetValues : Obligations.ResetValues := by
  obtain ⟨-, hinfo, -⟩ := infoLayout
  refine ⟨fun s rest => ?_, statusWord_resetWith _ _, rfl, rfl, rfl, rfl, hinfo, rfl, fun k => ?_⟩
  · exact step_of_reset (s := { s with inputs := .reset :: rest }) rfl
  · exact ⟨permIn_getElem_resetWith _ _ k, permOut_getElem_resetWith _ _ k⟩

end Sys2Proof.Machine
end
